-- ==== Sys2Proof/Word.lean ====
section
/-!
DEFINITION. The word types of the engine (00_scope R7): a word is 32 bits, a byte is 8 bits, and every
quantity is unsigned. Arithmetic on them is in Machine/Operands.lean.
-/

namespace Sys2Proof

/-- A `u32`, "word" (R7). -/
abbrev Word := BitVec 32

/-- A `u8`, one byte of host memory, SCRATCH or DIGEST (R7). -/
abbrev Byte := BitVec 8

end Sys2Proof
end

