-- ==== Sys2Proof/Machine/Regs.lean ====
section
/-!
DEFINITION. The register records of one engine context (10_state R20 to R36), as plain data. Numbers of
phases, causes and backend tags are computed in Machine/Flags.lean.
-/

namespace Sys2Proof.Machine

/-- `PHASE` (R28). The numbers 4, 5 and 6 never occur, so they have no constructor. -/
inductive Phase where
  | idle | absorb | final | done | fault
deriving DecidableEq, Repr, Inhabited

/-- The causes of a fault (R281): the nonzero values of `FAULT`; value 7 is never written. -/
inductive Cause where
  | nullBuffer | unsupportedBackend | illegalCommand | sequenceError | addressRange | accessFault
deriving DecidableEq, Repr, Inhabited

/-- The backends (R26, R80). Tag 3 is never produced, so it has no constructor. -/
inductive Backend where
  | generic | accelA | accelB
deriving DecidableEq, Repr, Inhabited

/-- Five words: the digest state `H[0..4]` (R21) or the working registers `WR[0..4]` (R22). -/
structure Quint where
  a : Word
  b : Word
  c : Word
  d : Word
  e : Word
deriving DecidableEq, Repr, Inhabited

/-- A vector register of four 32-bit lanes, lane 0 first (R35, R182). -/
structure Vec4 where
  l0 : Word
  l1 : Word
  l2 : Word
  l3 : Word
deriving DecidableEq, Repr, Inhabited

/-- The rolling window of the last sixteen schedule words, `VA_M[0..3]` or `VB_M[0..3]` (R35, R36). -/
structure Window where
  m0 : Vec4
  m1 : Vec4
  m2 : Vec4
  m3 : Vec4
deriving DecidableEq, Repr, Inhabited

/-- The vector registers of unit A (R35). -/
structure UnitA where
  abcd : Vec4
  e0 : Word
  e1 : Word
  m : Window
  t : Vec4
  wk : Vec4
deriving DecidableEq, Repr, Inhabited

/-- The vector registers of unit B (R36). -/
structure UnitB where
  abcd : Vec4
  prev : Vec4
  ew : Vec4
  m : Window
  t : Vec4
deriving DecidableEq, Repr, Inhabited

/-- Where a byte-order primitive named on its own finds its operand and leaves its result. R100, R102 and
R103 name an offset, a word and a double word and no register that holds them.
DESIGN CHOICE (notes/assumptions/14.md), safe: no other operation reads or writes these three. -/
structure Prim where
  off : BitVec 6
  x : Word
  v : BitVec 64
deriving DecidableEq, Repr, Inhabited

/-- Everything that exists only inside a command and holds no defined value between commands: `WR` (R22),
`W` (R23), `SCRATCH` (R24), the vector registers (R35, R36). -/
structure Units where
  wr : Quint
  w : Vector Word 80
  scratch : Vector Byte 64
  va : UnitA
  vb : UnitB
  prim : Prim
deriving DecidableEq, Repr, Inhabited

/-- The micro-sequencer position of a running command (R29): the counters `BLK`, `T`, `GRP`, `FB`, `K5`,
with the byte of the command that runs (`cmd`) and the code of the micro-operation to issue next (`uir`).
DEDUCED (notes/assumptions/18.md), safe: R29 names the counters; the other two are the rest of "the
position inside the command's micro-sequence". `BLK` is a `uADDR_W`, held in the widest one. -/
structure Seq where
  cmd : Byte
  uir : Byte
  blk : BitVec 64
  t : BitVec 7
  grp : BitVec 5
  fb : BitVec 2
  k5 : BitVec 3
deriving DecidableEq, Repr, Inhabited

end Sys2Proof.Machine
end

