-- ==== Sys2Proof/Config.lean ====
section
/-!
DEFINITION. What an implementation fixes, and the free values.

The parameters of 00_scope R6 are fields of the state (`Env` in Machine/State.lean), so that every statement
holds for all of them; here stand only the values `State.reset` gives them, the "default suggested for
tests" of R6. The free values are opaque: nothing in Lean can evaluate them, so nothing can rest on one.
-/

namespace Sys2Proof.Config

open Sys2Proof.Machine

/-- Test default of `ADDR_W` (R6, D4). DESIGN CHOICE (notes/assumptions/1.md), safe. -/
def addrW : Nat := 64
/-- Test default of `CAP_W` (R6, D5). DESIGN CHOICE (notes/assumptions/1.md), safe. -/
def capW : Nat := 64
/-- Test default of `CAP_A_BIT` (R6, D5). DESIGN CHOICE (notes/assumptions/1.md), safe. -/
def capABit : Nat := 0
/-- Test default of `CAP_B_BIT` (R6, D5). DESIGN CHOICE (notes/assumptions/1.md), safe. -/
def capBBit : Nat := 1
/-- Test default of `HAS_A` (R6, D7). DESIGN CHOICE (notes/assumptions/1.md), safe. -/
def hasA : Bool := true
/-- Test default of `HAS_B` (R6, D7). DESIGN CHOICE (notes/assumptions/1.md), safe. -/
def hasB : Bool := true
/-- Test default of `HOST_BE` (R6, D8). DESIGN CHOICE (notes/assumptions/1.md), safe. -/
def hostBE : Bool := false
/-- The answer of the capability provider in `State.reset`'s environment; R6 gives no default.
DESIGN CHOICE (notes/assumptions/1.md), safe. -/
def capIn : BitVec 64 := 0

/-- What a byte of host memory that nobody has written reads as; the spec gives no initial contents.
DESIGN CHOICE (notes/assumptions/9.md), unsafe. -/
def memDefault : Byte := 0

/-! Free values, each indexed by the counter `State.free` (notes/assumptions/5.md), safe. -/

/-- `H` where it is unspecified (R291). -/
opaque freeQuint : Nat → Quint
/-- `WR`, `W`, `SCRATCH` and the vector registers where they are unspecified (R22, R24, R40, R291). -/
opaque freeUnits : Nat → Units
/-- The micro-sequencer position where it is unspecified (R40, R291). -/
opaque freeSeq : Nat → Seq
/-- `DIGEST` where it is unspecified (R291, R333). -/
opaque freeDigest : Nat → Vector Byte 20
/-- `BSEL` where it is unspecified; tag 3 never occurs (R78). -/
opaque freeBackend : Nat → Backend
/-- `BSEL_VALID` where it is unspecified (R291). -/
opaque freeBit : Nat → Bool
/-- A byte that is unspecified: `FCMD` (R40), a byte read outside its valid time (R25, R33). -/
opaque freeByte : Nat → Byte
/-- A wide register that is unspecified: `OP_PTR`, `OP_LEN`, `CAPS` (R40, R33). -/
opaque freeWide : Nat → BitVec 64

end Sys2Proof.Config
end

