-- ==== Sys2Proof/Syntax.lean ====
section
/-!
DEFINITION. The operations of `SHA1CORE-1`: one constructor per row of spec/opcode_table.json, in the table's
order (30_encoding R72, R74). Twelve commands (format CMD8) and thirty-eight rows of micro-operations
(format UOP8). Only two rows have a field: `s` of VA.ADDK.s and `f` of VB.RNDS4.f, two bits each (R73).
-/

namespace Sys2Proof

inductive Instr where
  -- commands (R72)
  | getcaps | select | selectG | selectA | selectB | init | transform | finalize
  | encode | encodeLE | encodeBE | hash
  -- byte-order primitives (R74, unit 0)
  | ldbe32 | stbe64 | bswap32
  -- unit G
  | wrLoad | schedLoad | schedExp | rndCh | rndPar1 | rndMaj | rndPar2 | feedfwd
  -- unit A
  | vaLdbe | vaSu0 | vaSu1 | vaH | vaR4c | vaR4p | vaR4m | vaAcc | vaAddk (s : BitVec 2) | vaInit
  -- unit B
  | vbLdbe | vbMsg1 | vbXor | vbMsg2 | vbRnds4 (f : BitVec 2) | vbNexte | vbEadd | vbAcc | vbInit
  -- padding
  | padCopy | padMark | padLen | padZero0 | padZero1 | padZero2
  -- digest encoder
  | encSt | encSwst
deriving DecidableEq, Repr

end Sys2Proof
end

