-- ==== Sys2Proof/Machine/State.lean ====
section
/-!
DEFINITION. The state of the machine as plain data: the engine contexts (10_state R20), the shared capability
cache (R27), the parameters and straps (00_scope R6, R34), host memory (R39), the moves of the host and the
environment still to come, and `State.reset` (R40). INVENTORY.md, "State", lists every field with its rule.
-/

namespace Sys2Proof.Machine

/-- Why the machine stops with a fault. These are not the engine's own faults of 60_exceptions R281, which are
next states. -/
inductive Fault where
  /-- Raised by a read or a store of a byte of host memory at an address that is not below `2^ADDR_W`, an
  address that does not exist (10_state R39). Safe: the machine stops; the range checks of R285 keep every
  command away from it (notes/assumptions/21.md). -/
  | outsideAddressSpace
deriving DecidableEq, Repr

/-- Why a move or a micro-operation has no meaning. -/
inductive Refusal where
  /-- Raised by `exec` alone, for an instruction without a meaning. Safe. No arm uses it. -/
  | notModelled (mnemonic : String)
  /-- Raised by a micro-operation whose counter or offset lies outside the range its rule gives (SCHED.LOAD with
  `T > 15`, for example). Safe: the sequencer never gets there (notes/assumptions/15.md). -/
  | counterOutOfRange
  /-- Raised by a micro-operation of a vector unit that this build does not have, and by TRANSFORM or FINALIZE
  when `BSEL` names such a unit. Safe: "no block is ever processed by a unit that is not there" (R128), and no
  selection leads there (notes/assumptions/16.md). -/
  | unitAbsent
  /-- Raised by a step of a running command whose next micro-operation code is not one of R74. Safe: "the
  sequencer never produces one" (notes/assumptions/24.md). -/
  | unlistedMicroOp
  /-- Raised by a host access to an unassigned register number, a write to a read-only register or a read of
  CMD. Safe: a move the host does not have (R33; notes/assumptions/22.md). -/
  | noSuchAccess
  /-- Raised by a move that addresses a context number not below `NUM_CTX`. Safe: there is no such register set
  (R307; notes/assumptions/22.md). -/
  | noSuchContext
  /-- Raised by a store into the range that a running command reads. Safe: a move no agent has while the command
  runs (R57, U5; notes/assumptions/20.md). -/
  | bufferInUse
deriving DecidableEq, Repr

/-- The parameters of 00_scope R6 and the straps of R34. None is written by any command (R34); a reset event
brings the capability provider's answer for the new reset domain (R321). -/
structure Env where
  /-- `ADDR_W`, 7 to 64 -/
  addrW : Nat
  /-- `CAP_W`, 2 to 64 -/
  capW : Nat
  /-- `CAP_A_BIT`, below `CAP_W` -/
  capABit : Nat
  /-- `CAP_B_BIT`, below `CAP_W`, not `CAP_A_BIT` -/
  capBBit : Nat
  hasA : Bool
  hasB : Bool
  hostBE : Bool
  /-- `CAP_IN`, below `2^CAP_W` -/
  capIn : BitVec 64
  /-- `MEM_OK` as the address ranges (first address, size) whose reads the platform refuses
  (R52; notes/assumptions/17.md). -/
  refused : List (Nat × Nat)
deriving DecidableEq, Repr, Inhabited

/-- One engine context (R20). Registers of width `ADDR_W` are held in 64 bits (notes/assumptions/12.md). -/
structure Context where
  phase : Phase
  busy : Bool
  /-- `FAULT` (R30): `none` is the code 0. -/
  fault : Option Cause
  fcmd : Byte
  opPtr : BitVec 64
  opLen : BitVec 64
  bsel : Backend
  bselValid : Bool
  h : Quint
  digest : Vector Byte 20
  units : Units
  seq : Seq
deriving DecidableEq, Repr, Inhabited

/-- A move of the host, of the engine's scheduler or of the environment. The list of moves to come is plain
data and decides which agent moves next. DESIGN CHOICE (notes/assumptions/10.md), safe: every statement holds
for every list of moves. -/
inductive Event where
  /-- The host writes register number `reg` of context `ctx` (R33); a byte written to CMD runs as one atomic
  command (R10). Held while the context is busy (R331). -/
  | write (ctx reg : Nat) (value : BitVec 64)
  /-- The host writes `code` to CMD of context `ctx`, and the command then runs micro-operation by
  micro-operation (R29; notes/assumptions/2.md). Held while the context is busy (R331). -/
  | issue (ctx : Nat) (code : Byte)
  /-- The host reads register number `reg` of context `ctx` (R33). -/
  | read (ctx reg : Nat)
  /-- The host waits until `BUSY = 0` in context `ctx` (R87). -/
  | wait (ctx : Nat)
  /-- Context `ctx` performs its next micro-operation, if it is busy. -/
  | tick (ctx : Nat)
  /-- An agent other than the engine writes a byte of host memory. -/
  | store (addr : Nat) (value : Byte)
  /-- Reset of all contexts and of the cache (R320), with the provider's answer for the new domain (R321). -/
  | reset (capIn : BitVec 64)
deriving DecidableEq, Repr

/-- Host memory: address and byte, addresses strictly rising, no byte equal to what an unlisted address reads
as (`Memory.wf` in Machine/Ops.lean). -/
abbrev Memory := List Host.Cell

/-- The machine. The register file of the `NUM_CTX >= 1` contexts is `before ++ [ctx] ++ after`, in the order of
their numbers; `ctx` is the one that the move under way addresses (R307; notes/assumptions/11.md). -/
structure State where
  env : Env
  capsValid : Bool
  caps : BitVec 64
  before : List Context
  ctx : Context
  after : List Context
  mem : Memory
  events : List Event
  /-- what the last host register read returned (notes/assumptions/13.md) -/
  rdata : BitVec 64
  /-- the counter that indexes the free values (notes/assumptions/5.md) -/
  free : Nat
deriving DecidableEq, Repr

/-- Zero in every field: the named value of the registers without a reset value.
DESIGN CHOICE (notes/assumptions/3.md), unsafe. -/
def Units.zero : Units where
  wr := ⟨0, 0, 0, 0, 0⟩
  w := Vector.replicate 80 0
  scratch := Vector.replicate 64 0
  va := ⟨⟨0, 0, 0, 0⟩, 0, 0, ⟨⟨0, 0, 0, 0⟩, ⟨0, 0, 0, 0⟩, ⟨0, 0, 0, 0⟩, ⟨0, 0, 0, 0⟩⟩, ⟨0, 0, 0, 0⟩, ⟨0, 0, 0, 0⟩⟩
  vb := ⟨⟨0, 0, 0, 0⟩, ⟨0, 0, 0, 0⟩, ⟨0, 0, 0, 0⟩, ⟨⟨0, 0, 0, 0⟩, ⟨0, 0, 0, 0⟩, ⟨0, 0, 0, 0⟩, ⟨0, 0, 0, 0⟩⟩, ⟨0, 0, 0, 0⟩⟩
  prim := ⟨0, 0, 0⟩

/-- One context right after reset (R40): PHASE = IDLE, BUSY = 0, FAULT = 0, BSEL_VALID = 0; the rest has no
reset value and is zero here (notes/assumptions/3.md). -/
def Context.reset : Context where
  phase := .idle
  busy := false
  fault := none
  fcmd := 0
  opPtr := 0
  opLen := 0
  bsel := .generic
  bselValid := false
  h := ⟨0, 0, 0, 0, 0⟩
  digest := Vector.replicate 20 0
  units := Units.zero
  seq := ⟨0, 0, 0, 0, 0, 0, 0⟩

/-- The environment of `State.reset`: the test defaults of R6 (notes/assumptions/1.md). -/
def Env.default : Env where
  addrW := Config.addrW
  capW := Config.capW
  capABit := Config.capABit
  capBBit := Config.capBBit
  hasA := Config.hasA
  hasB := Config.hasB
  hostBE := Config.hostBE
  capIn := Config.capIn
  refused := []

/-- The machine right after reset (R40, R320): one idle context, an empty capability cache, nothing listed in
host memory and no move pending. -/
def State.reset : State where
  env := Env.default
  capsValid := false
  caps := 0
  before := []
  ctx := Context.reset
  after := []
  mem := []
  events := []
  rdata := 0
  free := 0

end Sys2Proof.Machine
end

