-- ==== Sys2Proof/Machine/Port.lean ====
section
/-!
DEFINITION. The register numbers of the host interface and the accesses they admit (10_state R33).
-/

namespace Sys2Proof.Machine

/-- The registers of a context that the host can reach (R33). -/
inductive HostReg where
  | cmd | status | opPtr | opLen | caps | fcmd | digest (i : Fin 20)
deriving DecidableEq, Repr

/-- The register with number `n`, if `n` is assigned (R33): 0 CMD, 1 STATUS, 2 OP_PTR, 3 OP_LEN, 4 CAPS, 5 FCMD,
32 + i DIGEST[i]. -/
def HostReg.ofNumber (n : Nat) : Option HostReg :=
  if n = 0 then some .cmd
  else if n = 1 then some .status
  else if n = 2 then some .opPtr
  else if n = 3 then some .opLen
  else if n = 4 then some .caps
  else if n = 5 then some .fcmd
  else if h : 32 ≤ n ∧ n < 52 then some (.digest ⟨n - 32, by omega⟩)
  else none

/-- A write to number `n` is admitted: CMD, OP_PTR and OP_LEN (R33). -/
def HostReg.writable (n : Nat) : Bool :=
  match HostReg.ofNumber n with
  | some .cmd | some .opPtr | some .opLen => true
  | some .status | some .caps | some .fcmd | some (.digest _) | none => false

/-- A read of number `n` is admitted: every assigned register but CMD (R33). -/
def HostReg.readable (n : Nat) : Bool :=
  match HostReg.ofNumber n with
  | some .status | some .opPtr | some .opLen | some .caps | some .fcmd | some (.digest _) => true
  | some .cmd | none => false

end Sys2Proof.Machine
end

