-- ==== Sys2Proof/WellFormed.lean ====
section
/-!
DEFINITION. Which operations and which moves are well formed. An `Instr` is well typed by construction (the two
fields are two bits wide, R73); what the spec restricts is WHO may issue it (30_encoding R70, 40_primitives
R104), and which register accesses, contexts and addresses a move may name (10_state R33, R39, R307).
-/

namespace Sys2Proof

open Machine

/-- A command (format CMD8, R70): the twelve operations of R72. -/
def Instr.isCommand : Instr → Bool
  | .getcaps | .select | .selectG | .selectA | .selectB | .init | .transform | .finalize
  | .encode | .encodeLE | .encodeBE | .hash => true
  | .ldbe32 | .stbe64 | .bswap32
  | .wrLoad | .schedLoad | .schedExp | .rndCh | .rndPar1 | .rndMaj | .rndPar2 | .feedfwd
  | .vaLdbe | .vaSu0 | .vaSu1 | .vaH | .vaR4c | .vaR4p | .vaR4m | .vaAcc | .vaAddk _ | .vaInit
  | .vbLdbe | .vbMsg1 | .vbXor | .vbMsg2 | .vbRnds4 _ | .vbNexte | .vbEadd | .vbAcc | .vbInit
  | .padCopy | .padMark | .padLen | .padZero0 | .padZero1 | .padZero2
  | .encSt | .encSwst => false

/-- A primitive: it has a code "only so that a trace can name" it, and the sequencer does not issue it on its own
(R104). -/
def Instr.isPrimitive (i : Instr) : Bool :=
  i = .ldbe32 || i = .stbe64 || i = .bswap32

/-- Who issues an operation (R70): the host, on the command port, or the engine's own sequencer. -/
inductive Issuer where
  | host | sequencer
deriving DecidableEq, Repr

/-- The operations an issuer may issue (R70, R104). -/
def Instr.wf (by_ : Issuer) (i : Instr) : Bool :=
  match by_ with
  | .host => i.isCommand
  | .sequencer => !i.isCommand && !i.isPrimitive

/-- The moves the host and the environment have (R33, R39, R307): an existing context, an assigned register number
with the access it admits, an address inside the space of `2^addrW` bytes. -/
def Machine.Event.wf (numCtx addrW : Nat) : Event → Bool
  | .write k n _ => decide (k < numCtx) && HostReg.writable n
  | .issue k _ => decide (k < numCtx)
  | .read k n => decide (k < numCtx) && HostReg.readable n
  | .wait k => decide (k < numCtx)
  | .tick k => decide (k < numCtx)
  | .store a _ => decide (a < 2 ^ addrW)
  | .reset _ => true

end Sys2Proof
end

