-- ==== Sys2Proof/Decode.lean ====
section
/-!
DEFINITION. Decoding and encoding of the one-byte operations (30_encoding R70 to R75, spec/opcode_table.json).
`decode` follows the table's rows of match and mask; `encode` is written apart from them, from the codes of
R72 and R74.
-/

namespace Sys2Proof

/-- One row of the opcode table: a byte `c` belongs to it when `c &&& mask = value`, and the row's operation may
take the two low bits of `c` as its field (R73, R75). -/
structure Row where
  value : Byte
  mask : Byte
  make : BitVec 2 → Instr

/-- A row without a field. -/
def Row.fixed (value : Byte) (i : Instr) : Row := ⟨value, 0xFF, fun _ => i⟩

/-- The rows of format CMD8 (R72). -/
def commandRows : List Row :=
  [.fixed 0x01 .getcaps, .fixed 0x10 .select, .fixed 0x11 .selectG, .fixed 0x12 .selectA,
   .fixed 0x13 .selectB, .fixed 0x20 .init, .fixed 0x30 .transform, .fixed 0x40 .finalize,
   .fixed 0x50 .encode, .fixed 0x51 .encodeLE, .fixed 0x52 .encodeBE, .fixed 0x60 .hash]

/-- The rows of format UOP8 (R74). -/
def microRows : List Row :=
  [.fixed 0x80 .ldbe32, .fixed 0x81 .stbe64, .fixed 0x82 .bswap32,
   .fixed 0x90 .wrLoad, .fixed 0x91 .schedLoad, .fixed 0x92 .schedExp, .fixed 0x94 .rndCh,
   .fixed 0x95 .rndPar1, .fixed 0x96 .rndMaj, .fixed 0x97 .rndPar2, .fixed 0x98 .feedfwd,
   .fixed 0xA0 .vaLdbe, .fixed 0xA1 .vaSu0, .fixed 0xA2 .vaSu1, .fixed 0xA3 .vaH, .fixed 0xA4 .vaR4c,
   .fixed 0xA5 .vaR4p, .fixed 0xA6 .vaR4m, .fixed 0xA7 .vaAcc, ⟨0xA8, 0xFC, .vaAddk⟩, .fixed 0xAC .vaInit,
   .fixed 0xB0 .vbLdbe, .fixed 0xB1 .vbMsg1, .fixed 0xB2 .vbXor, .fixed 0xB3 .vbMsg2, ⟨0xB4, 0xFC, .vbRnds4⟩,
   .fixed 0xB8 .vbNexte, .fixed 0xB9 .vbEadd, .fixed 0xBA .vbAcc, .fixed 0xBB .vbInit,
   .fixed 0xC0 .padCopy, .fixed 0xC1 .padMark, .fixed 0xC3 .padLen, .fixed 0xC4 .padZero0,
   .fixed 0xC5 .padZero1, .fixed 0xC6 .padZero2, .fixed 0xD0 .encSt, .fixed 0xD1 .encSwst]

/-- The operation of the first row that `c` belongs to. -/
def decodeRows (rows : List Row) (c : Byte) : Option Instr :=
  (rows.find? fun r => c &&& r.mask == r.value).map fun r => r.make (c.setWidth 2)

/-- The command a byte written to CMD names, if it is one of the twelve codes (R75, R78). -/
def decodeCommand (c : Byte) : Option Instr := decodeRows commandRows c

/-- The micro-operation a code in the sequencer names, if it is one of R74 (R75). -/
def decodeMicro (c : Byte) : Option Instr := decodeRows microRows c

/-- Decoding of any byte (R75): bit 7 tells the two formats apart (R70). -/
def decode (c : Byte) : Option Instr :=
  if c.getLsbD 7 then decodeMicro c else decodeCommand c

/-- The byte of an operation (R72, R74). -/
def encode : Instr → Byte
  | .getcaps => 0x01
  | .select => 0x10
  | .selectG => 0x11
  | .selectA => 0x12
  | .selectB => 0x13
  | .init => 0x20
  | .transform => 0x30
  | .finalize => 0x40
  | .encode => 0x50
  | .encodeLE => 0x51
  | .encodeBE => 0x52
  | .hash => 0x60
  | .ldbe32 => 0x80
  | .stbe64 => 0x81
  | .bswap32 => 0x82
  | .wrLoad => 0x90
  | .schedLoad => 0x91
  | .schedExp => 0x92
  | .rndCh => 0x94
  | .rndPar1 => 0x95
  | .rndMaj => 0x96
  | .rndPar2 => 0x97
  | .feedfwd => 0x98
  | .vaLdbe => 0xA0
  | .vaSu0 => 0xA1
  | .vaSu1 => 0xA2
  | .vaH => 0xA3
  | .vaR4c => 0xA4
  | .vaR4p => 0xA5
  | .vaR4m => 0xA6
  | .vaAcc => 0xA7
  | .vaAddk s => 0xA8 + s.setWidth 8
  | .vaInit => 0xAC
  | .vbLdbe => 0xB0
  | .vbMsg1 => 0xB1
  | .vbXor => 0xB2
  | .vbMsg2 => 0xB3
  | .vbRnds4 f => 0xB4 + f.setWidth 8
  | .vbNexte => 0xB8
  | .vbEadd => 0xB9
  | .vbAcc => 0xBA
  | .vbInit => 0xBB
  | .padCopy => 0xC0
  | .padMark => 0xC1
  | .padLen => 0xC3
  | .padZero0 => 0xC4
  | .padZero1 => 0xC5
  | .padZero2 => 0xC6
  | .encSt => 0xD0
  | .encSwst => 0xD1

/-- The operation the decoder reads from an instruction of `nbits` bits with value `w`: every operation is exactly
one byte (R70), so any other length names none. -/
def decodeTableWord (nbits w : Nat) : Option Instr :=
  if nbits = 8 then decode (BitVec.ofNat 8 w) else none

end Sys2Proof
end

