-- ==== Sys2Proof/Machine/Operands.lean ====
section
/-!
DEFINITION. The byte-order primitives and the arithmetic of 40_primitives, and reading and writing the elements
of the register records: bytes of a sequence, lanes, the rolling window, words of a quintet.
-/

namespace Sys2Proof.Machine

/-! Arithmetic (R106 to R109). No operation sets a flag (R37). -/

/-- `rotl32(x, n)`, the circular left shift (R106). -/
def rotl32 (x : Word) (n : Nat) : Word := x.rotateLeft n

/-- `add32(x, y)`: the sum modulo 2^32, its carry discarded (R107). -/
def add32 (x y : Word) : Word := x + y

/-- `mul8_64(n)`: `n * 8` truncated to 64 bits (R109 (a), R226). -/
def mul8 (n : Nat) : BitVec 64 := BitVec.ofNat 64 (n * 8)

/-- The low `w` bits of `v`: what a register of `w` bits keeps of a wider value. -/
def truncTo (w : Nat) (v : BitVec 64) : BitVec 64 := BitVec.ofNat 64 (v.toNat % 2 ^ w)

/-! Byte sequences and words (R100 to R103, R245). -/

/-- Byte `i` of a byte sequence (R7). -/
def byteAt (bs : List Byte) (i : Nat) : Byte := bs.getD i 0

/-- Four bytes as a big-endian word, the first the most significant (R100). -/
def word32 (b0 b1 b2 b3 : Byte) : Word := b0 ++ b1 ++ b2 ++ b3

/-- `LDBE32(S, o)` on a byte sequence (R100). -/
def loadBE (bs : List Byte) (o : Nat) : Word :=
  word32 (byteAt bs o) (byteAt bs (o + 1)) (byteAt bs (o + 2)) (byteAt bs (o + 3))

/-- `STBE64(v)`: eight bytes, most significant first (R102). -/
def storeBE64 (v : BitVec 64) : List Byte :=
  [v.extractLsb' 56 8, v.extractLsb' 48 8, v.extractLsb' 40 8, v.extractLsb' 32 8,
   v.extractLsb' 24 8, v.extractLsb' 16 8, v.extractLsb' 8 8, v.extractLsb' 0 8]

/-- `BSWAP32(x)`: the four bytes in the other order (R103). -/
def bswap32 (x : Word) : Word :=
  word32 (x.extractLsb' 0 8) (x.extractLsb' 8 8) (x.extractLsb' 16 8) (x.extractLsb' 24 8)

/-- `StoreNative32(v, be)`: a host's own store of a word, big-endian or little-endian (R245). -/
def storeNative32 (v : Word) (be : Bool) : List Byte :=
  if be then [v.extractLsb' 24 8, v.extractLsb' 16 8, v.extractLsb' 8 8, v.extractLsb' 0 8]
  else [v.extractLsb' 0 8, v.extractLsb' 8 8, v.extractLsb' 16 8, v.extractLsb' 24 8]

/-! Elements of the internal arrays. -/

/-- Writes a byte sequence into an internal byte array from index `i` on. -/
def putBytes {n : Nat} (v : Vector Byte n) (i : Nat) : List Byte → Vector Byte n
  | [] => v
  | b :: bs => putBytes (v.setIfInBounds i b) (i + 1) bs

/-- `W[i]` (R23). -/
def wAt (w : Vector Word 80) (i : Nat) : Word := w[i]?.getD 0

/-- Word `k` of a quintet: 0 is a, 4 is e (R21, R22). -/
def Quint.get (q : Quint) (k : Nat) : Word :=
  match k with
  | 0 => q.a
  | 1 => q.b
  | 2 => q.c
  | 3 => q.d
  | _ => q.e

/-- The word-by-word sum of two quintets (R142 step 3, R151). -/
def Quint.add (x y : Quint) : Quint :=
  ⟨add32 x.a y.a, add32 x.b y.b, add32 x.c y.c, add32 x.d y.d, add32 x.e y.e⟩

/-- Words a to d of a quintet as the state vector (R182). -/
def Quint.abcd (q : Quint) : Vec4 := ⟨q.a, q.b, q.c, q.d⟩

/-- Lane by lane. -/
def Vec4.map (f : Word → Word) (v : Vec4) : Vec4 := ⟨f v.l0, f v.l1, f v.l2, f v.l3⟩

/-- `M[i mod 4]` (R182). -/
def Window.get (m : Window) (i : Nat) : Vec4 :=
  match i % 4 with
  | 0 => m.m0
  | 1 => m.m1
  | 2 => m.m2
  | _ => m.m3

/-- `M[i mod 4] <- v` (R182). -/
def Window.set (m : Window) (i : Nat) (v : Vec4) : Window :=
  match i % 4 with
  | 0 => { m with m0 := v }
  | 1 => { m with m1 := v }
  | 2 => { m with m2 := v }
  | _ => { m with m3 := v }

/-- Four big-endian words from offset `o` on, the first in lane 0 (R82, R184). -/
def loadVec (bs : List Byte) (o : Nat) : Vec4 :=
  ⟨loadBE bs o, loadBE bs (o + 4), loadBE bs (o + 8), loadBE bs (o + 12)⟩

end Sys2Proof.Machine
end

