-- ==== Sys2Proof/Machine/Sha1.lean ====
section
/-!
DEFINITION. The algorithm as functions of data alone: the stage table (42_transform_generic R146), the round, the
schedule, `Compress` (R142), the padding function `Pad` (44_padding R221), the digest bytes (30_encoding R85) and
`SHA1` (46_hash R256).
-/

namespace Sys2Proof.Machine

/-- `IV[0..4]` (R21). -/
def iv : Quint := ⟨0x67452301, 0xEFCDAB89, 0x98BADCFE, 0x10325476, 0xC3D2E1F0⟩

/-- choose (R146): the bit of `c` where `b` has 1, the bit of `d` where `b` has 0. -/
def choose (b c d : Word) : Word := (b &&& c) ||| (~~~b &&& d)

/-- parity (R146). -/
def parity (b c d : Word) : Word := b ^^^ c ^^^ d

/-- majority (R146). -/
def majority (b c d : Word) : Word := (b &&& c) ||| (b &&& d) ||| (c &&& d)

/-- `F_s`, the round function of stage `s` (R146). -/
def roundF (s : Nat) : Word → Word → Word → Word :=
  match s with
  | 0 => choose
  | 1 => parity
  | 2 => majority
  | _ => parity

/-- `K_s`, the additive constant of stage `s` (R146): K1 to K4. -/
def roundK (s : Nat) : Word :=
  match s with
  | 0 => 0x5A827999
  | 1 => 0x6ED9EBA1
  | 2 => 0x8F1BBCDC
  | _ => 0xCA62C1D6

/-- One round of stage `s` on schedule word `w` (R142 step 2, R147 to R150). -/
def roundStep (s : Nat) (w : Word) (q : Quint) : Quint :=
  ⟨add32 (add32 (add32 (add32 q.e (roundF s q.b q.c q.d)) w) (roundK s)) (rotl32 q.a 5),
   q.a, rotl32 q.b 30, q.c, q.d⟩

/-- The schedule recurrence (R142 step 1, R145): the word derived from `w[i-3], w[i-8], w[i-14], w[i-16]`. -/
def schedWord (x3 x8 x14 x16 : Word) : Word := rotl32 (x3 ^^^ x8 ^^^ x14 ^^^ x16) 1

/-- The first sixteen schedule words of a block (R142 step 1). -/
def schedLoad (bk : List Byte) : List Word := (List.range 16).map fun j => loadBE bk (4 * j)

/-- Appends `n` derived words to a schedule of at least sixteen words (R142 step 1). -/
def schedExtend : Nat → List Word → List Word
  | 0, w => w
  | n + 1, w =>
    let i := w.length
    schedExtend n (w ++ [schedWord (w.getD (i - 3) 0) (w.getD (i - 8) 0) (w.getD (i - 14) 0) (w.getD (i - 16) 0)])

/-- The message schedule `w[0..79]` of a block (R142 step 1). -/
def schedule (bk : List Byte) : List Word := schedExtend 64 (schedLoad bk)

/-- The eighty rounds over a schedule (R142 step 2). -/
def rounds (w : List Word) (q : Quint) : Quint :=
  (List.range 80).foldl (fun q t => roundStep (t / 20) (w.getD t 0) q) q

/-- `Compress(h, Bk)` (R142), the function of unit G. -/
def compress (h : Quint) (bk : List Byte) : Quint := h.add (rounds (schedule bk) h)

/-- `Rounds4(F, (a, b, c, d), e, x)` (R182), with `F` the round function of stage `s`. -/
def rounds4 (s : Nat) (v : Vec4) (e : Word) (x : Vec4) : Vec4 :=
  let r (w : Word) (q : Quint) : Quint :=
    ⟨add32 (add32 (add32 q.e (roundF s q.b q.c q.d)) w) (rotl32 q.a 5), q.a, rotl32 q.b 30, q.c, q.d⟩
  (r x.l3 (r x.l2 (r x.l1 (r x.l0 ⟨v.l0, v.l1, v.l2, v.l3, e⟩)))).abcd

/-- `Pad(t, n)` (R221): the one or two final blocks of a tail `t` of a message of `n` bytes. -/
def pad (t : List Byte) (n : Nat) : List (List Byte) :=
  let r := t.length
  if r + 1 ≤ 56 then
    [t ++ [0x80] ++ List.replicate (56 - (r + 1)) 0 ++ storeBE64 (mul8 n)]
  else
    [t ++ [0x80] ++ List.replicate (64 - (r + 1)) 0, List.replicate 56 0 ++ storeBE64 (mul8 n)]

/-- The four bytes an encoder path emits for one word (R240): a big-endian host stores it as it is, a little-endian
host swaps it first. -/
def digestWord (be : Bool) (x : Word) : List Byte :=
  if be then storeNative32 x true else storeNative32 (bswap32 x) false

/-- Digest word `k` of state `h` written into the digest by the path `be` (R243, R244). -/
def putDigestWord (be : Bool) (h : Quint) (k : Nat) (d : Vector Byte 20) : Vector Byte 20 :=
  putBytes d (4 * k) (digestWord be (h.get k))

/-- All five digest words in order (R240, R248). -/
def putDigest (be : Bool) (h : Quint) (d : Vector Byte 20) : Vector Byte 20 :=
  (List.range 5).foldl (fun d k => putDigestWord be h k d) d

/-- The twenty digest bytes of a state, `H[0]` first, each word most significant byte first (R85). -/
def digestBytes (h : Quint) : List Byte :=
  storeNative32 h.a true ++ storeNative32 h.b true ++ storeNative32 h.c true ++ storeNative32 h.d true
    ++ storeNative32 h.e true

/-- The compression of the `n` consecutive 64-byte blocks at the front of `b`, in order (R153). -/
def compressBlocks (h : Quint) (b : List Byte) : Nat → Quint
  | 0 => h
  | n + 1 => compressBlocks (compress h (b.take 64)) (b.drop 64) n

/-- `SHA1(b)` (R256). A claim that it is the SHA-1 digest of `b` carries the premise `8 * b.length < 2^64` (R15, R226). -/
def sha1 (b : List Byte) : List Byte :=
  let n := b.length / 64
  digestBytes ((pad (b.drop (64 * n)) b.length).foldl compress (compressBlocks iv b n))

end Sys2Proof.Machine
end

