-- ==== Sys2Proof/Machine/LanesA.lean ====
section
/-!
DEFINITION. The datapath of the vector unit A as functions of its registers (43_transform_accel R183 to R193). `g`
is the group counter `GRP`, `bk` the block the unit works on.
-/

namespace Sys2Proof.Machine

/-- VA.INIT (R183). -/
def UnitA.load (h : Quint) (u : UnitA) : UnitA := { u with abcd := h.abcd, e0 := h.e }

/-- VA.LDBE (R184), the four words already loaded. -/
def UnitA.putWords (g : Nat) (x : Vec4) (u : UnitA) : UnitA := { u with m := u.m.set g x }

/-- VA.SU0 (R185): lane j is `W[4g+j-16] ^ W[4g+j-14] ^ W[4g+j-8]`. -/
def UnitA.su0 (g : Nat) (u : UnitA) : UnitA :=
  let x0 := u.m.get g
  let x1 := u.m.get (g + 1)
  let x2 := u.m.get (g + 2)
  { u with t := ⟨x0.l0 ^^^ x0.l2 ^^^ x2.l0, x0.l1 ^^^ x0.l3 ^^^ x2.l1,
                 x0.l2 ^^^ x1.l0 ^^^ x2.l2, x0.l3 ^^^ x1.l1 ^^^ x2.l3⟩ }

/-- VA.SU1 (R186): lane 3 needs lane 0 of the vector being made, through `rotl32(.., 2)`. -/
def UnitA.su1 (g : Nat) (u : UnitA) : UnitA :=
  let x3 := u.m.get (g + 3)
  let u0 := u.t.l0 ^^^ x3.l1
  let u1 := u.t.l1 ^^^ x3.l2
  let u2 := u.t.l2 ^^^ x3.l3
  let u3 := u.t.l3
  { u with m := u.m.set g ⟨rotl32 u0 1, rotl32 u1 1, rotl32 u2 1, rotl32 u3 1 ^^^ rotl32 u0 2⟩ }

/-- VA.ADDK.s (R187): each lane wraps on its own. -/
def UnitA.addK (s g : Nat) (u : UnitA) : UnitA :=
  { u with wk := (u.m.get g).map fun x => add32 x (roundK s) }

/-- VA.H (R188). -/
def UnitA.hRotate (u : UnitA) : UnitA := { u with e1 := rotl32 u.abcd.l0 30 }

/-- VA.R4C, VA.R4P, VA.R4M (R189 to R191): four rounds with the function of stage `s`; the constant is already in
`VA_WK`. -/
def UnitA.fourRounds (s : Nat) (u : UnitA) : UnitA :=
  { u with abcd := rounds4 s u.abcd u.e0 u.wk, e0 := u.e1 }

/-- VA.ACC (R192): the new digest state. -/
def UnitA.accumulate (h : Quint) (u : UnitA) : Quint :=
  h.add ⟨u.abcd.l0, u.abcd.l1, u.abcd.l2, u.abcd.l3, u.e0⟩

/-- Which function the four rounds of group `g` use (R193): choose below 5, majority from 10 to 14, else parity. -/
def groupStageA (g : Nat) : Nat :=
  if g < 5 then 0 else if 10 ≤ g ∧ g < 15 then 2 else 1

/-- The micro-operations of group `g` (R193). -/
def UnitA.group (g : Nat) (u : UnitA) : UnitA :=
  let v := if 4 ≤ g then (u.su0 g).su1 g else u
  ((v.addK (g / 5) g).hRotate).fourRounds (groupStageA g)

/-- `Compress_1(h, Bk)` (R193): the micro-sequence of unit A. Every register is written before it is read, so the
registers' earlier contents do not matter. -/
def compressA (h : Quint) (bk : List Byte) : Quint :=
  let u0 := UnitA.load h default
  let u1 := (List.range 4).foldl (fun u g => u.putWords g (loadVec bk (16 * g))) u0
  ((List.range 20).foldl (fun u g => u.group g) u1).accumulate h

end Sys2Proof.Machine
end

