-- ==== Sys2Proof/Machine/LanesB.lean ====
section
/-!
DEFINITION. The datapath of the vector unit B as functions of its registers (43_transform_accel R195 to R204). `g`
is the group counter `GRP`, `bk` the block the unit works on.
-/

namespace Sys2Proof.Machine

/-- VB.INIT (R195): `H[4]` is not copied. -/
def UnitB.load (h : Quint) (u : UnitB) : UnitB := { u with abcd := h.abcd }

/-- VB.LDBE (R196), the four words already loaded. -/
def UnitB.putWords (g : Nat) (x : Vec4) (u : UnitB) : UnitB := { u with m := u.m.set g x }

/-- VB.MSG1 (R197): lane j is `W[4g+j-16] ^ W[4g+j-14]`. -/
def UnitB.msg1 (g : Nat) (u : UnitB) : UnitB :=
  let x0 := u.m.get g
  let x1 := u.m.get (g + 1)
  { u with t := ⟨x0.l0 ^^^ x0.l2, x0.l1 ^^^ x0.l3, x0.l2 ^^^ x1.l0, x0.l3 ^^^ x1.l1⟩ }

/-- VB.XOR (R198). -/
def UnitB.xorT (g : Nat) (u : UnitB) : UnitB :=
  let x2 := u.m.get (g + 2)
  { u with t := ⟨u.t.l0 ^^^ x2.l0, u.t.l1 ^^^ x2.l1, u.t.l2 ^^^ x2.l2, u.t.l3 ^^^ x2.l3⟩ }

/-- VB.MSG2 (R199): lane 3 uses lane 0 just computed. -/
def UnitB.msg2 (g : Nat) (u : UnitB) : UnitB :=
  let x3 := u.m.get (g + 3)
  let w0 := rotl32 (u.t.l0 ^^^ x3.l1) 1
  let w1 := rotl32 (u.t.l1 ^^^ x3.l2) 1
  let w2 := rotl32 (u.t.l2 ^^^ x3.l3) 1
  let w3 := rotl32 (u.t.l3 ^^^ w0) 1
  { u with m := u.m.set g ⟨w0, w1, w2, w3⟩ }

/-- VB.EADD (R200): only lane 0 is added to; `e` is `H[4]`. -/
def UnitB.eAdd (e : Word) (u : UnitB) : UnitB :=
  { u with ew := { u.m.m0 with l0 := add32 u.m.m0.l0 e } }

/-- VB.NEXTE (R201). -/
def UnitB.nextE (g : Nat) (u : UnitB) : UnitB :=
  let x := u.m.get g
  { u with ew := { x with l0 := add32 x.l0 (rotl32 u.prev.l0 30) } }

/-- VB.RNDS4.f (R202): four rounds from `e = 0` with the function and the constant of stage `f`. -/
def UnitB.fourRounds (f : Nat) (u : UnitB) : UnitB :=
  { u with abcd := rounds4 f u.abcd 0 (u.ew.map fun x => add32 x (roundK f)), prev := u.abcd }

/-- VB.ACC (R203): the new digest state; the final e is rebuilt from the a of before the last group. -/
def UnitB.accumulate (h : Quint) (u : UnitB) : Quint :=
  h.add ⟨u.abcd.l0, u.abcd.l1, u.abcd.l2, u.abcd.l3, rotl32 u.prev.l0 30⟩

/-- The micro-operations of group `g` (R204). -/
def UnitB.group (h : Quint) (g : Nat) (u : UnitB) : UnitB :=
  let v := if 4 ≤ g then ((u.msg1 g).xorT g).msg2 g else u
  let w := if g = 0 then v.eAdd h.e else v.nextE g
  w.fourRounds (g / 5)

/-- `Compress_2(h, Bk)` (R204): the micro-sequence of unit B. Every register is written before it is read, so the
registers' earlier contents do not matter. -/
def compressB (h : Quint) (bk : List Byte) : Quint :=
  let u0 := UnitB.load h default
  let u1 := (List.range 4).foldl (fun u g => u.putWords g (loadVec bk (16 * g))) u0
  ((List.range 20).foldl (fun u g => u.group h g) u1).accumulate h

end Sys2Proof.Machine
end

