-- ==== Sys2Proof/Machine/Ops.lean ====
section
/-!
DEFINITION. The named operations over memory and registers: host memory and `MemRead` (20_memory R52), the updates
of a context, the end of a command, TAKING A FAULT (60_exceptions R290, R291), reset (70_reset_and_hazards R320),
addressing a context (R307), and the acceptance every command starts with (R288).
-/

namespace Sys2Proof.Machine

/-- The outcomes of the machine. -/
abbrev Out := Host.Outcome State Fault Refusal

/-! ## Results of an operation inside a command -/

/-- What an operation inside a command can answer: a value, a fault of the engine (R281), or the model's own stop
(an address that does not exist). -/
inductive Res (α : Type) where
  | ok (a : α)
  | raise (c : Cause)
  | stop (f : Fault)
deriving DecidableEq, Repr

/-- The next operation runs only if this one has a value. -/
def Res.bind {α β : Type} (r : Res α) (k : α → Res β) : Res β :=
  match r with
  | .ok a => k a
  | .raise c => .raise c
  | .stop f => .stop f

/-- A pure function of the value. -/
def Res.map {α β : Type} (f : α → β) (r : Res α) : Res β := r.bind fun a => .ok (f a)

/-! ## Host memory (R39, R52) -/

/-- The byte at address `a`; an unlisted address reads as `Config.memDefault` (notes/assumptions/9.md). -/
def Memory.read (m : Memory) (a : Nat) : Byte :=
  match m with
  | [] => Config.memDefault
  | (k, b) :: rest => if k = a then b else Memory.read rest a

/-- Writes a byte, keeping the canonical form: what an unlisted address reads as is not listed. Only agents other
than the engine write host memory (R54). -/
def Memory.write (m : Memory) (a : Nat) (b : Byte) : Memory :=
  match m with
  | [] => if b = Config.memDefault then [] else [(a, b)]
  | (k, v) :: rest =>
    if a < k then (if b = Config.memDefault then (k, v) :: rest else (a, b) :: (k, v) :: rest)
    else if a = k then (if b = Config.memDefault then rest else (a, b) :: rest)
    else (k, v) :: Memory.write rest a b

/-- The canonical form: addresses strictly rising, no listed byte equal to the default. -/
def Memory.wf : Memory → Bool
  | [] => true
  | (k, v) :: rest => v != Config.memDefault && rest.all (fun c => decide (k < c.1)) && Memory.wf rest

/-- `MEM_OK`: the platform grants the read of the byte at `a` (R6, R52). -/
def Env.memOk (env : Env) (a : Nat) : Bool :=
  !(env.refused.any fun r => decide (r.1 ≤ a ∧ a < r.1 + r.2))

/-- The read of one byte of host memory: AccessFault where the platform refuses it (R287); an address outside the
space does not exist (R39). -/
def State.readByte (s : State) (a : Nat) : Res Byte :=
  if 2 ^ s.env.addrW ≤ a then .stop .outsideAddressSpace
  else if s.env.memOk a then .ok (s.mem.read a)
  else .raise .accessFault

/-- `MemRead(a, n)` (R52): bytes in increasing address order, so a refused read is that of the lowest address. -/
def State.memRead (s : State) (a : Nat) : Nat → Res (List Byte)
  | 0 => .ok []
  | n + 1 => (s.readByte a).bind fun b => (s.memRead (a + 1) n).map fun bs => b :: bs

/-! ## Contexts -/

/-- The register file in the order of the context numbers (R307). -/
def State.file (s : State) : List Context := s.before ++ s.ctx :: s.after

/-- `NUM_CTX` (R6). -/
def State.numCtx (s : State) : Nat := s.before.length + 1 + s.after.length

/-- The number of the context in focus. -/
def State.current (s : State) : Nat := s.before.length

/-- Puts context `k` in focus; the register file does not change. -/
def State.focus (s : State) (k : Nat) : State :=
  match s.file[k]? with
  | some c => { s with before := s.file.take k, ctx := c, after := s.file.drop (k + 1) }
  | none => s

/-! ## Updates of the context in focus -/

def State.setH (s : State) (q : Quint) : State := { s with ctx := { s.ctx with h := q } }
def State.setUnits (s : State) (u : Units) : State := { s with ctx := { s.ctx with units := u } }
def State.setSeq (s : State) (q : Seq) : State := { s with ctx := { s.ctx with seq := q } }
def State.setPhase (s : State) (p : Phase) : State := { s with ctx := { s.ctx with phase := p } }
def State.setBusy (s : State) (b : Bool) : State := { s with ctx := { s.ctx with busy := b } }
def State.setDigest (s : State) (d : Vector Byte 20) : State := { s with ctx := { s.ctx with digest := d } }
/-- `BSEL <- b ; BSEL_VALID <- 1` (R123, R125 to R127). -/
def State.setBackend (s : State) (b : Backend) : State :=
  { s with ctx := { s.ctx with bsel := b, bselValid := true } }

/-! ## The end of a command, and faults -/

/-- The end of a command that used the compression units: `BUSY` falls, and what exists only inside the command
holds no defined value any more (R22, R23, R24, R29, R35, R36; notes/assumptions/6.md). -/
def State.retire (s : State) : State :=
  { s with
    ctx := { s.ctx with busy := false, units := Config.freeUnits s.free, seq := Config.freeSeq s.free }
    free := s.free + 1 }

/-- The end of a command that used the sequencer alone, an ENCODE (R29, R248; notes/assumptions/6.md). -/
def State.retireSeq (s : State) : State :=
  { s with
    ctx := { s.ctx with busy := false, seq := Config.freeSeq s.free }
    free := s.free + 1 }

/-- Taking a fault (R290): `FAULT` the code, `FCMD` the command byte, `PHASE` FAULT, `BUSY` 0, in one step. There is
no handler, nothing is saved, and there is no return (R292). Everything that R291 calls unspecified is a free
value; the cache, the operand registers, the straps and host memory keep their values. -/
def State.takeFault (s : State) (c : Cause) (code : Byte) : State :=
  { s with
    ctx :=
      { s.ctx with
        phase := .fault
        busy := false
        fault := some c
        fcmd := code
        bsel := Config.freeBackend s.free
        bselValid := Config.freeBit s.free
        h := Config.freeQuint s.free
        digest := Config.freeDigest s.free
        units := Config.freeUnits s.free
        seq := Config.freeSeq s.free }
    free := s.free + 1 }

/-- The outcome of a command or micro-operation from its result: a value is the next state, a fault of the engine is
taken in state `s` with command byte `code`. -/
def State.finish (s : State) (code : Byte) (r : Res State) : Out :=
  match r with
  | .ok t => .next t
  | .raise c => .next (s.takeFault c code)
  | .stop f => .fault f

/-! ## Reset (R320) -/

/-- One context after a reset event (R40): five elements have a value, the rest is free; `n` indexes the free
values. -/
def Context.afterReset (addrW n : Nat) : Context where
  phase := .idle
  busy := false
  fault := none
  fcmd := Config.freeByte n
  opPtr := truncTo addrW (Config.freeWide n)
  opLen := truncTo addrW (Config.freeWide (n + 1))
  bsel := Config.freeBackend n
  bselValid := false
  h := Config.freeQuint n
  digest := Config.freeDigest n
  units := Config.freeUnits n
  seq := Config.freeSeq n

/-- The contexts of a list after a reset event, each with free values of its own. -/
def resetContexts (addrW : Nat) (l : List Context) (n : Nat) : List Context :=
  match l with
  | [] => []
  | _ :: rest => Context.afterReset addrW n :: resetContexts addrW rest (n + 2)

/-- A reset event (R320, R321): all contexts and the cache, with the provider's answer for the new reset domain
(notes/assumptions/4.md, 26.md). Host memory, the straps and the host's own moves are not affected. -/
def State.resetEvent (s : State) (capIn : BitVec 64) : State :=
  let n := s.free
  { s with
    env := { s.env with capIn := truncTo s.env.capW capIn }
    capsValid := false
    caps := truncTo s.env.capW (Config.freeWide n)
    before := resetContexts s.env.addrW s.before (n + 1)
    ctx := Context.afterReset s.env.addrW (n + 1 + 2 * s.before.length)
    after := resetContexts s.env.addrW s.after (n + 3 + 2 * s.before.length)
    free := n + 1 + 2 * s.numCtx }

/-! ## Operands and acceptance -/

/-- `NULL_ADDR` (R58, D12). -/
def nullAddr : Nat := 0

/-- `p`, the operand `OP_PTR` (R76). -/
def State.ptr (s : State) : Nat := s.ctx.opPtr.toNat

/-- `n` or `L`, the operand `OP_LEN` (R76). -/
def State.len (s : State) : Nat := s.ctx.opLen.toNat

/-- The phases between two computations, IDLE and DONE (R262). -/
def Phase.isBetween (p : Phase) : Bool :=
  match p with
  | .idle | .done => true
  | .absorb | .final | .fault => false

/-- The first of the acceptance checks (3) to (5) of R288 that fails: the phase or a further condition, a null
pointer with something to read (R283), a range of `size` bytes that leaves the address space (R285). -/
def acceptCheck (addrW : Nat) (inOrder : Bool) (p size : Nat) : Option Cause :=
  if !inOrder then some .sequenceError
  else if p = nullAddr ∧ size ≠ 0 then some .nullBuffer
  else if 2 ^ addrW < p + size then some .addressRange
  else none

/-- What every command starts with (R288): while `BUSY = 1` the write is held and nothing takes effect (R331); in
phase FAULT every command is ignored (R292). `step` calls no command in a busy context (notes/assumptions/25.md). -/
def State.onCommand (s : State) (body : State → Out) : Out :=
  if s.ctx.busy then .next s
  else if s.ctx.phase = .fault then .next s
  else body s

/-! ## Compression units -/

/-- The unit of a backend is present in this build (R34, R128); Generic always is (R6). -/
def Env.present (env : Env) (b : Backend) : Bool :=
  match b with
  | .generic => true
  | .accelA => env.hasA
  | .accelB => env.hasB

/-- `Compress_t` (R142, R193, R204). -/
def compressWith (b : Backend) (h : Quint) (bk : List Byte) : Quint :=
  match b with
  | .generic => compress h bk
  | .accelA => compressA h bk
  | .accelB => compressB h bk

/-- A micro-operation of unit A: only in a build that has the unit (R35, R128). -/
def State.onUnitA (s : State) (f : State → Out) : Out :=
  if s.env.hasA then f s else .refused .unitAbsent

/-- A micro-operation of unit B: only in a build that has the unit (R36, R128). -/
def State.onUnitB (s : State) (f : State → Out) : Out :=
  if s.env.hasB then f s else .refused .unitAbsent

/-! ## The block a unit works on (R144, R180, R227) -/

/-- The code of HASH (R72). -/
def hashCode : Byte := 0x60

/-- Byte `o` of the current block: SCRATCH while final blocks remain (`FB` not 0), else host memory at
`p + 64 * BLK` (R144, R227). -/
def State.blockByte (s : State) (o : Nat) : Res Byte :=
  if s.ctx.seq.fb = 0 then s.readByte (s.ptr + 64 * s.ctx.seq.blk.toNat + o)
  else .ok (byteAt s.ctx.units.scratch.toList o)

/-- `LDBE32(block, o)` (R100): four bytes in increasing address order. -/
def State.blockWord (s : State) (o : Nat) : Res Word :=
  (s.blockByte o).bind fun b0 => (s.blockByte (o + 1)).bind fun b1 =>
    (s.blockByte (o + 2)).bind fun b2 => (s.blockByte (o + 3)).map fun b3 => word32 b0 b1 b2 b3

/-- Four words of the current block from offset `o` on (R184). -/
def State.blockVec (s : State) (o : Nat) : Res Vec4 :=
  (s.blockWord o).bind fun w0 => (s.blockWord (o + 4)).bind fun w1 =>
    (s.blockWord (o + 8)).bind fun w2 => (s.blockWord (o + 12)).map fun w3 => ⟨w0, w1, w2, w3⟩

/-! ## The range a running command reads (R53) -/

/-- First address and size of the range that the command running in context `c` reads; empty when none runs. -/
def Context.readRange (c : Context) : Nat × Nat :=
  if !c.busy then (0, 0)
  else if c.seq.cmd = 0x30 then (c.opPtr.toNat, 64 * c.opLen.toNat)
  else if c.seq.cmd = 0x40 then (c.opPtr.toNat, c.opLen.toNat % 64)
  else if c.seq.cmd = hashCode then (c.opPtr.toNat, c.opLen.toNat)
  else (0, 0)

/-- Some running command reads the byte at `a` (R53, R57). -/
def State.bufferInUse (s : State) (a : Nat) : Bool :=
  s.file.any fun c => decide (c.readRange.1 ≤ a ∧ a < c.readRange.1 + c.readRange.2)

end Sys2Proof.Machine
end

