-- ==== Sys2Proof/Machine/Capability.lean ====
section
/-!
DEFINITION. The capability cache and the backend dispatcher: GETCAPS, SELECT, SELECT.G, SELECT.A, SELECT.B
(41_capability_dispatch R120 to R130).
-/

namespace Sys2Proof.Machine

/-- The body of GETCAPS (R120, R62): fill the cache if it is empty, in one indivisible step. -/
def State.fillCaps (s : State) : State :=
  if s.capsValid then s else { s with caps := s.env.capIn, capsValid := true }

/-- GETCAPS (R120). It never raises SequenceError (R286). -/
def execGetcaps (s : State) : Out := s.onCommand fun s => .next s.fillCaps

/-- `Select(c)` (R124): Accelerated-A before Accelerated-B before Generic; no other bit of `c` matters. -/
def selectTag (env : Env) (c : BitVec 64) : Backend :=
  if c.getLsbD env.capABit then .accelA
  else if c.getLsbD env.capBBit then .accelB
  else .generic

/-- `BSEL <- t` if the unit is there, else UnsupportedBackend (R123, R126, R127, R128). -/
def State.chooseBackend (s : State) (t : Backend) : Res State :=
  if s.env.present t then .ok (s.setBackend t) else .raise .unsupportedBackend

/-- The selection step of SELECT and of HASH (R123, R255). -/
def State.selectBackend (s : State) : Res State := s.chooseBackend (selectTag s.env s.caps)

/-- SELECT (R123). -/
def execSelect (s : State) : Out :=
  s.onCommand fun s =>
    if s.ctx.phase.isBetween && s.capsValid then s.finish 0x10 s.selectBackend
    else .next (s.takeFault .sequenceError 0x10)

/-- A forced selection (R125 to R127): it ignores the cache. -/
def State.forceBackend (s : State) (t : Backend) (code : Byte) : Out :=
  s.onCommand fun s =>
    if s.ctx.phase.isBetween then s.finish code (s.chooseBackend t)
    else .next (s.takeFault .sequenceError code)

/-- SELECT.G (R125). -/
def execSelectG (s : State) : Out := s.forceBackend .generic 0x11

/-- SELECT.A (R126). -/
def execSelectA (s : State) : Out := s.forceBackend .accelA 0x12

/-- SELECT.B (R127). -/
def execSelectB (s : State) : Out := s.forceBackend .accelB 0x13

end Sys2Proof.Machine
end

