-- ==== Sys2Proof/Machine/Digest.lean ====
section
/-!
DEFINITION. The digest encoder: ENCODE, ENCODE.LE, ENCODE.BE, ENC.ST, ENC.SWST (45_digest R240 to R248). The path
`be` is that of a big-endian host: no swap, big-endian store.
-/

namespace Sys2Proof.Machine

/-- The body of an ENCODE by path `be` (R240 to R242): the five words, then phase DONE. -/
def State.encodeDigest (s : State) (be : Bool) : State :=
  (s.setDigest (putDigest be s.ctx.h s.ctx.digest)).setPhase .done

/-- An ENCODE by path `be`, command byte `code` (R240 to R242). -/
def State.encodeBy (s : State) (be : Bool) (code : Byte) : Out :=
  s.onCommand fun s =>
    if s.ctx.phase = .final then .next (s.encodeDigest be).retireSeq
    else .next (s.takeFault .sequenceError code)

/-- ENCODE (R240): the path of the strap `HOST_BE`. -/
def execEncode (s : State) : Out := s.encodeBy s.env.hostBE 0x50

/-- ENCODE.LE (R241). -/
def execEncodeLE (s : State) : Out := s.encodeBy false 0x51

/-- ENCODE.BE (R242). -/
def execEncodeBE (s : State) : Out := s.encodeBy true 0x52

/-- The counter `K5` (R29). -/
def State.kCount (s : State) : Nat := s.ctx.seq.k5.toNat

/-- Digest word `K5` by path `be` (R243, R244), `K5` in 0..4. -/
def State.encodeWord (s : State) (be : Bool) : Out :=
  if s.kCount ≤ 4 then .next (s.setDigest (putDigestWord be s.ctx.h s.kCount s.ctx.digest))
  else .refused .counterOutOfRange

/-- ENC.ST (R244). -/
def execEncSt (s : State) : Out := s.encodeWord true

/-- ENC.SWST (R243). -/
def execEncSwst (s : State) : Out := s.encodeWord false

end Sys2Proof.Machine
end

