-- ==== Sys2Proof/Machine/Padding.lean ====
section
/-!
DEFINITION. FINALIZE and the padding micro-operations (44_padding R220 to R227).
-/

namespace Sys2Proof.Machine

/-- The body of FINALIZE (R220): tail at `p`, total length `n`. The final blocks go through the selected unit, and
the phase becomes FINAL. -/
def State.finalizeTail (s : State) (p n : Nat) : Res State :=
  (s.memRead p (n % 64)).map fun tail =>
    (s.setH ((pad tail n).foldl (compressWith s.ctx.bsel) s.ctx.h)).setPhase .final

/-- The acceptance check of FINALIZE (R220, R288). -/
def State.finalizeCheck (s : State) : Option Cause :=
  acceptCheck s.env.addrW (decide (s.ctx.phase = .absorb)) s.ptr (s.len % 64)

/-- FINALIZE (R220). -/
def execFinalize (s : State) : Out :=
  s.onCommand fun s =>
    match s.finalizeCheck with
    | some c => .next (s.takeFault c 0x40)
    | none =>
      if !s.env.present s.ctx.bsel then .refused .unitAbsent
      else s.finish 0x40 ((s.finalizeTail s.ptr s.len).map State.retire)

/-! ## Micro-operations. `r` is the number of trailing bytes, `n mod 64` (R76). -/

/-- `r` (R76, R220). -/
def State.tailSize (s : State) : Nat := s.len % 64

/-- The address of the first trailing byte: `OP_PTR` in FINALIZE, `p + 64 * (L div 64)` in HASH (R255). -/
def State.tailPtr (s : State) : Nat :=
  if s.ctx.seq.cmd = hashCode then s.ptr + 64 * (s.len / 64) else s.ptr

/-- Bytes written into SCRATCH from index `i` on (R24). -/
def State.putScratch (s : State) (i : Nat) (bs : List Byte) : State :=
  s.setUnits { s.ctx.units with scratch := putBytes s.ctx.units.scratch i bs }

/-- PAD.COPY (R222). -/
def execPadCopy (s : State) : Out :=
  s.finish s.ctx.seq.cmd ((s.memRead s.tailPtr s.tailSize).map fun t => s.putScratch 0 t)

/-- PAD.MARK (R223). -/
def execPadMark (s : State) : Out := .next (s.putScratch s.tailSize [0x80])

/-- PAD.LEN (R225). -/
def execPadLen (s : State) : Out := .next (s.putScratch 56 (storeBE64 (mul8 s.len)))

/-- `SCRATCH[lo .. hi) <- 0x00` (R224); empty when `hi <= lo`. -/
def State.zeroScratch (s : State) (lo hi : Nat) : State := s.putScratch lo (List.replicate (hi - lo) 0)

/-- PAD.ZERO.0 (R224). -/
def execPadZero0 (s : State) : Out := .next (s.zeroScratch (s.tailSize + 1) 56)

/-- PAD.ZERO.1 (R224). -/
def execPadZero1 (s : State) : Out := .next (s.zeroScratch (s.tailSize + 1) 64)

/-- PAD.ZERO.2 (R224). -/
def execPadZero2 (s : State) : Out := .next (s.zeroScratch 0 56)

end Sys2Proof.Machine
end

