-- ==== Sys2Proof/Machine/Transform.lean ====
section
/-!
DEFINITION. INIT and TRANSFORM, command level (42_transform_generic R140, R141, R153).
-/

namespace Sys2Proof.Machine

/-- The body of INIT (R140): `H` is the IV, the phase ABSORB. The digest of the computation before is lost (R333):
free (notes/assumptions/7.md). -/
def State.startComputation (s : State) : State :=
  { s with
    ctx := { s.ctx with h := iv, phase := .absorb, digest := Config.freeDigest s.free }
    free := s.free + 1 }

/-- INIT (R140). -/
def execInit (s : State) : Out :=
  s.onCommand fun s =>
    if s.ctx.phase.isBetween && s.ctx.bselValid then .next s.startComputation
    else .next (s.takeFault .sequenceError 0x20)

/-- The digest state after the `n` blocks at `p`, `p + 64`, ... of host memory (R141): each is read, then compressed
by the selected unit, in order. -/
def State.absorb (s : State) (p : Nat) (h : Quint) : Nat → Res Quint
  | 0 => .ok h
  | n + 1 => (s.memRead p 64).bind fun bk => s.absorb (p + 64) (compressWith s.ctx.bsel h bk) n

/-- The body of TRANSFORM on `n` blocks at `p` (R141). -/
def State.transformBlocks (s : State) (p n : Nat) : Res State := (s.absorb p s.ctx.h n).map fun h => s.setH h

/-- The acceptance check of TRANSFORM (R141, R288). -/
def State.transformCheck (s : State) : Option Cause :=
  acceptCheck s.env.addrW (decide (s.ctx.phase = .absorb)) s.ptr (64 * s.len)

/-- TRANSFORM (R141). A count of 0 does nothing at all. -/
def execTransform (s : State) : Out :=
  s.onCommand fun s =>
    match s.transformCheck with
    | some c => .next (s.takeFault c 0x30)
    | none =>
      if s.len = 0 then .next s
      else if !s.env.present s.ctx.bsel then .refused .unitAbsent
      else s.finish 0x30 ((s.transformBlocks s.ptr s.len).map State.retire)

end Sys2Proof.Machine
end

