-- ==== Sys2Proof/Machine/Hash.lean ====
section
/-!
DEFINITION. HASH, the one-shot hash (46_hash R255): the bodies of GETCAPS, SELECT, INIT, TRANSFORM, FINALIZE and
ENCODE in order, with the operands of R255.
-/

namespace Sys2Proof.Machine

/-- The acceptance check of HASH (R255, R288). -/
def State.hashCheck (s : State) : Option Cause :=
  acceptCheck s.env.addrW s.ctx.phase.isBetween s.ptr s.len

/-- GETCAPS, SELECT and INIT of HASH (R255); UnsupportedBackend comes after the cache has been filled (R290). -/
def State.hashPrepare (s : State) : Res State :=
  s.fillCaps.selectBackend.map State.startComputation

/-- TRANSFORM, FINALIZE and ENCODE of HASH (R255). The registers `OP_PTR` and `OP_LEN` are not changed. -/
def State.hashMessage (s : State) : Res State :=
  (s.transformBlocks s.ptr (s.len / 64)).bind fun s1 =>
    (s1.finalizeTail (s.ptr + 64 * (s.len / 64)) s.len).map fun s2 => s2.encodeDigest s2.env.hostBE

/-- HASH (R255). -/
def execHash (s : State) : Out :=
  s.onCommand fun s =>
    match s.hashCheck with
    | some c => .next (s.takeFault c hashCode)
    | none =>
      match s.hashPrepare with
      | .raise c => .next (s.fillCaps.takeFault c hashCode)
      | .stop f => .fault f
      | .ok s1 => s1.finish hashCode (s1.hashMessage.map State.retire)

end Sys2Proof.Machine
end

