-- ==== Sys2Proof/Machine/Primitives.lean ====
section
/-!
DEFINITION. The byte-order primitives named on their own: LDBE32, STBE64, BSWAP32 (40_primitives R100 to R104). The
spec gives them a code so that a trace can name them, and the sequencer never issues them alone (R104); where
their operand and result stand is the model's choice (notes/assumptions/14.md).
-/

namespace Sys2Proof.Machine

/-- The operand and result of a primitive (notes/assumptions/14.md). -/
def State.setPrim (s : State) (p : Prim) : State := s.setUnits { s.ctx.units with prim := p }

/-- LDBE32 (R100): the word at offset `off` of the current block; its four bytes lie inside the block. -/
def execLdbe32 (s : State) : Out :=
  let p := s.ctx.units.prim
  if p.off.toNat ≤ 60 then
    s.finish s.ctx.seq.cmd ((s.blockWord p.off.toNat).map fun x => s.setPrim { p with x := x })
  else .refused .counterOutOfRange

/-- STBE64 (R102): the double word `v` into `SCRATCH[56..64)`. -/
def execStbe64 (s : State) : Out :=
  let u := s.ctx.units
  .next (s.setUnits { u with scratch := putBytes u.scratch 56 (storeBE64 u.prim.v) })

/-- BSWAP32 (R103): the word `x` with its four bytes in the other order. -/
def execBswap32 (s : State) : Out :=
  let p := s.ctx.units.prim
  .next (s.setPrim { p with x := bswap32 p.x })

end Sys2Proof.Machine
end

