-- ==== Sys2Proof/Machine/UnitAOps.lean ====
section
/-!
DEFINITION. The micro-operations of the vector unit A (43_transform_accel R183 to R192). Each acts on the context in
focus, in a build that has the unit; the datapath functions are in Machine/LanesA.lean.
-/

namespace Sys2Proof.Machine

/-- The counter `GRP` (R29). -/
def State.group (s : State) : Nat := s.ctx.seq.grp.toNat

/-- The unit's registers changed by `f`, nothing else. -/
def State.mapA (s : State) (f : UnitA → UnitA) : State :=
  s.setUnits { s.ctx.units with va := f s.ctx.units.va }

/-- VA.INIT (R183). -/
def execVaInit (s : State) : Out := s.onUnitA fun s => .next (s.mapA (UnitA.load s.ctx.h))

/-- VA.LDBE (R184), `GRP` in 0..3. -/
def execVaLdbe (s : State) : Out :=
  s.onUnitA fun s =>
    if s.group ≤ 3 then
      s.finish s.ctx.seq.cmd ((s.blockVec (16 * s.group)).map fun x => s.mapA (UnitA.putWords s.group x))
    else .refused .counterOutOfRange

/-- VA.SU0 (R185). -/
def execVaSu0 (s : State) : Out := s.onUnitA fun s => .next (s.mapA (UnitA.su0 s.group))

/-- VA.SU1 (R186). -/
def execVaSu1 (s : State) : Out := s.onUnitA fun s => .next (s.mapA (UnitA.su1 s.group))

/-- VA.ADDK.s (R187). -/
def execVaAddk (k : BitVec 2) (s : State) : Out := s.onUnitA fun s => .next (s.mapA (UnitA.addK k.toNat s.group))

/-- VA.H (R188). -/
def execVaH (s : State) : Out := s.onUnitA fun s => .next (s.mapA UnitA.hRotate)

/-- VA.R4C (R189). -/
def execVaR4c (s : State) : Out := s.onUnitA fun s => .next (s.mapA (UnitA.fourRounds 0))

/-- VA.R4P (R190). -/
def execVaR4p (s : State) : Out := s.onUnitA fun s => .next (s.mapA (UnitA.fourRounds 1))

/-- VA.R4M (R191). -/
def execVaR4m (s : State) : Out := s.onUnitA fun s => .next (s.mapA (UnitA.fourRounds 2))

/-- VA.ACC (R192). -/
def execVaAcc (s : State) : Out := s.onUnitA fun s => .next (s.setH (s.ctx.units.va.accumulate s.ctx.h))

end Sys2Proof.Machine
end

