-- ==== Sys2Proof/Machine/UnitBOps.lean ====
section
/-!
DEFINITION. The micro-operations of the vector unit B (43_transform_accel R195 to R203). Each acts on the context in
focus, in a build that has the unit; the datapath functions are in Machine/LanesB.lean.
-/

namespace Sys2Proof.Machine

/-- The unit's registers changed by `f`, nothing else. -/
def State.mapB (s : State) (f : UnitB → UnitB) : State :=
  s.setUnits { s.ctx.units with vb := f s.ctx.units.vb }

/-- VB.INIT (R195). -/
def execVbInit (s : State) : Out := s.onUnitB fun s => .next (s.mapB (UnitB.load s.ctx.h))

/-- VB.LDBE (R196), `GRP` in 0..3. -/
def execVbLdbe (s : State) : Out :=
  s.onUnitB fun s =>
    if s.group ≤ 3 then
      s.finish s.ctx.seq.cmd ((s.blockVec (16 * s.group)).map fun x => s.mapB (UnitB.putWords s.group x))
    else .refused .counterOutOfRange

/-- VB.MSG1 (R197). -/
def execVbMsg1 (s : State) : Out := s.onUnitB fun s => .next (s.mapB (UnitB.msg1 s.group))

/-- VB.XOR (R198). -/
def execVbXor (s : State) : Out := s.onUnitB fun s => .next (s.mapB (UnitB.xorT s.group))

/-- VB.MSG2 (R199). -/
def execVbMsg2 (s : State) : Out := s.onUnitB fun s => .next (s.mapB (UnitB.msg2 s.group))

/-- VB.EADD (R200). -/
def execVbEadd (s : State) : Out := s.onUnitB fun s => .next (s.mapB (UnitB.eAdd s.ctx.h.e))

/-- VB.NEXTE (R201). -/
def execVbNexte (s : State) : Out := s.onUnitB fun s => .next (s.mapB (UnitB.nextE s.group))

/-- VB.RNDS4.f (R202). -/
def execVbRnds4 (f : BitVec 2) (s : State) : Out := s.onUnitB fun s => .next (s.mapB (UnitB.fourRounds f.toNat))

/-- VB.ACC (R203). -/
def execVbAcc (s : State) : Out := s.onUnitB fun s => .next (s.setH (s.ctx.units.vb.accumulate s.ctx.h))

end Sys2Proof.Machine
end

