-- ==== Sys2Proof/Machine/UnitG.lean ====
section
/-!
DEFINITION. The micro-operations of the scalar unit G (42_transform_generic R143 to R151). Each acts on the context
in focus; `T` is the sequencer counter.
-/

namespace Sys2Proof.Machine

/-- The counter `T` (R29). -/
def State.tCount (s : State) : Nat := s.ctx.seq.t.toNat

/-- `W[i] <- x` (R23). -/
def State.setW (s : State) (i : Nat) (x : Word) : State :=
  s.setUnits { s.ctx.units with w := s.ctx.units.w.setIfInBounds i x }

/-- WR.LOAD (R143). -/
def execWrLoad (s : State) : Out := .next (s.setUnits { s.ctx.units with wr := s.ctx.h })

/-- SCHED.LOAD (R144), `T` in 0..15. -/
def execSchedLoad (s : State) : Out :=
  if s.tCount ≤ 15 then s.finish s.ctx.seq.cmd ((s.blockWord (4 * s.tCount)).map fun x => s.setW s.tCount x)
  else .refused .counterOutOfRange

/-- SCHED.EXP (R145), `T` in 16..79. -/
def execSchedExp (s : State) : Out :=
  let t := s.tCount
  let w := s.ctx.units.w
  if 16 ≤ t ∧ t ≤ 79 then
    .next (s.setW t (schedWord (wAt w (t - 3)) (wAt w (t - 8)) (wAt w (t - 14)) (wAt w (t - 16))))
  else .refused .counterOutOfRange

/-- One round of stage `stage` on `W[T]` (R147 to R150), for every `T` that names a schedule word
(notes/assumptions/15.md). -/
def State.scalarRound (s : State) (stage : Nat) : Out :=
  if s.tCount ≤ 79 then
    .next (s.setUnits
      { s.ctx.units with wr := roundStep stage (wAt s.ctx.units.w s.tCount) s.ctx.units.wr })
  else .refused .counterOutOfRange

/-- RND.CH (R147). -/
def execRndCh (s : State) : Out := s.scalarRound 0

/-- RND.PAR1 (R148). -/
def execRndPar1 (s : State) : Out := s.scalarRound 1

/-- RND.MAJ (R149). -/
def execRndMaj (s : State) : Out := s.scalarRound 2

/-- RND.PAR2 (R150). -/
def execRndPar2 (s : State) : Out := s.scalarRound 3

/-- FEEDFWD (R151). -/
def execFeedfwd (s : State) : Out := .next (s.setH (s.ctx.h.add s.ctx.units.wr))

end Sys2Proof.Machine
end

