-- ==== Sys2Proof/Machine/Dispatch.lean ====
section
/-!
DEFINITION. One arm per operation of spec/opcode_table.json, each one call of its meaning.
-/

namespace Sys2Proof.Machine

def exec (i : Instr) (s : State) : Host.Outcome State Fault Refusal :=
  match i with
  | .getcaps => Sys2Proof.Machine.execGetcaps s
  | .select => Sys2Proof.Machine.execSelect s
  | .selectG => Sys2Proof.Machine.execSelectG s
  | .selectA => Sys2Proof.Machine.execSelectA s
  | .selectB => Sys2Proof.Machine.execSelectB s
  | .init => Sys2Proof.Machine.execInit s
  | .transform => Sys2Proof.Machine.execTransform s
  | .finalize => Sys2Proof.Machine.execFinalize s
  | .encode => Sys2Proof.Machine.execEncode s
  | .encodeLE => Sys2Proof.Machine.execEncodeLE s
  | .encodeBE => Sys2Proof.Machine.execEncodeBE s
  | .hash => Sys2Proof.Machine.execHash s
  | .ldbe32 => Sys2Proof.Machine.execLdbe32 s
  | .stbe64 => Sys2Proof.Machine.execStbe64 s
  | .bswap32 => Sys2Proof.Machine.execBswap32 s
  | .wrLoad => Sys2Proof.Machine.execWrLoad s
  | .schedLoad => Sys2Proof.Machine.execSchedLoad s
  | .schedExp => Sys2Proof.Machine.execSchedExp s
  | .rndCh => Sys2Proof.Machine.execRndCh s
  | .rndPar1 => Sys2Proof.Machine.execRndPar1 s
  | .rndMaj => Sys2Proof.Machine.execRndMaj s
  | .rndPar2 => Sys2Proof.Machine.execRndPar2 s
  | .feedfwd => Sys2Proof.Machine.execFeedfwd s
  | .vaLdbe => Sys2Proof.Machine.execVaLdbe s
  | .vaSu0 => Sys2Proof.Machine.execVaSu0 s
  | .vaSu1 => Sys2Proof.Machine.execVaSu1 s
  | .vaH => Sys2Proof.Machine.execVaH s
  | .vaR4c => Sys2Proof.Machine.execVaR4c s
  | .vaR4p => Sys2Proof.Machine.execVaR4p s
  | .vaR4m => Sys2Proof.Machine.execVaR4m s
  | .vaAcc => Sys2Proof.Machine.execVaAcc s
  | .vaAddk k => Sys2Proof.Machine.execVaAddk k s
  | .vaInit => Sys2Proof.Machine.execVaInit s
  | .vbLdbe => Sys2Proof.Machine.execVbLdbe s
  | .vbMsg1 => Sys2Proof.Machine.execVbMsg1 s
  | .vbXor => Sys2Proof.Machine.execVbXor s
  | .vbMsg2 => Sys2Proof.Machine.execVbMsg2 s
  | .vbRnds4 f => Sys2Proof.Machine.execVbRnds4 f s
  | .vbNexte => Sys2Proof.Machine.execVbNexte s
  | .vbEadd => Sys2Proof.Machine.execVbEadd s
  | .vbAcc => Sys2Proof.Machine.execVbAcc s
  | .vbInit => Sys2Proof.Machine.execVbInit s
  | .padCopy => Sys2Proof.Machine.execPadCopy s
  | .padMark => Sys2Proof.Machine.execPadMark s
  | .padLen => Sys2Proof.Machine.execPadLen s
  | .padZero0 => Sys2Proof.Machine.execPadZero0 s
  | .padZero1 => Sys2Proof.Machine.execPadZero1 s
  | .padZero2 => Sys2Proof.Machine.execPadZero2 s
  | .encSt => Sys2Proof.Machine.execEncSt s
  | .encSwst => Sys2Proof.Machine.execEncSwst s

end Sys2Proof.Machine
end

