-- ==== Sys2Proof/Machine/Flags.lean ====
section
/-!
DEFINITION. The engine has no condition codes (10_state R37); its only status bits are those of STATUS (R32), a
view of other state. Here are the numbers of phases, causes and backends, STATUS, and what a host read or an
operand write of a register does (R33).
-/

namespace Sys2Proof.Machine

/-- The numbers of the phases (R28). -/
def Phase.code (p : Phase) : BitVec 3 :=
  match p with
  | .idle => 0
  | .absorb => 1
  | .final => 2
  | .done => 3
  | .fault => 7

/-- The codes of the faults (R281). -/
def Cause.code (c : Cause) : BitVec 3 :=
  match c with
  | .nullBuffer => 1
  | .unsupportedBackend => 2
  | .illegalCommand => 3
  | .sequenceError => 4
  | .addressRange => 5
  | .accessFault => 6

/-- The value of `FAULT` (R30). -/
def faultCode (f : Option Cause) : BitVec 3 :=
  match f with
  | none => 0
  | some c => c.code

/-- The tags of the backends (R80). -/
def Backend.tag (b : Backend) : BitVec 2 :=
  match b with
  | .generic => 0
  | .accelA => 1
  | .accelB => 2

/-- One status bit. -/
def bit1 (b : Bool) : BitVec 1 := BitVec.ofBool b

/-- `STATUS` (R32): [2:0] PHASE, [3] BUSY, [6:4] FAULT, [7] CAPS_VALID, [8] BSEL_VALID, [10:9] BSEL, [11] HOST_BE,
[12] HAS_A, [13] HAS_B, [31:14] zero. BSEL is unspecified while `BSEL_VALID = 0`: a free value, never tag 3
(R78; notes/assumptions/8.md). -/
def State.status (s : State) : BitVec 32 :=
  let c := s.ctx
  let sel := if c.bselValid then c.bsel else Config.freeBackend s.free
  (0 : BitVec 18) ++ bit1 s.env.hasB ++ bit1 s.env.hasA ++ bit1 s.env.hostBE ++ sel.tag ++ bit1 c.bselValid
    ++ bit1 s.capsValid ++ faultCode c.fault ++ bit1 c.busy ++ c.phase.code

/-- What a host read of a register returns, zero-extended (R33). A value that the spec calls unspecified is free:
CAPS while `CAPS_VALID = 0`, FCMD while `FAULT = 0`, a DIGEST byte outside phase DONE (R25, R33, R333;
notes/assumptions/8.md). CMD is write-only and has no read. -/
def State.regValue (s : State) (r : HostReg) : BitVec 64 :=
  match r with
  | .cmd => 0
  | .status => s.status.setWidth 64
  | .opPtr => s.ctx.opPtr
  | .opLen => s.ctx.opLen
  | .caps => if s.capsValid then s.caps else truncTo s.env.capW (Config.freeWide s.free)
  | .fcmd => (if s.ctx.fault.isSome then s.ctx.fcmd else Config.freeByte s.free).setWidth 64
  | .digest i =>
    (if s.ctx.phase = .done ∧ s.ctx.busy = false then s.ctx.digest[i.val] else Config.freeByte s.free).setWidth 64

/-- A host read: the value goes to the host. The free counter moves on, so that two reads of an unspecified value
need not agree. -/
def State.readReg (s : State) (r : HostReg) : State :=
  { s with rdata := s.regValue r, free := s.free + 1 }

/-- A host write of `OP_PTR` (R31, R33): the register keeps `ADDR_W` bits (notes/assumptions/12.md). -/
def State.writePtr (s : State) (v : BitVec 64) : State :=
  { s with ctx := { s.ctx with opPtr := truncTo s.env.addrW v } }

/-- A host write of `OP_LEN` (R31, R33). -/
def State.writeLen (s : State) (v : BitVec 64) : State :=
  { s with ctx := { s.ctx with opLen := truncTo s.env.addrW v } }

end Sys2Proof.Machine
end

