-- ==== Sys2Proof/Machine/Sequencer.lean ====
section
/-!
DEFINITION. The micro-sequencer (10_state R29): issuing a command so that it runs micro-operation by
micro-operation, the order of the micro-operations (42_transform_generic R152, 43_transform_accel R193 and R204,
44_padding R227, 45_digest R248, 46_hash R265), one micro-step of a busy context; and the moves of the host and the
environment (20_memory R57, 70_reset_and_hazards R320, R331).
-/

namespace Sys2Proof.Machine

/-! ## Positions -/

/-- The first micro-operation of a unit's per-block sequence (R152, R193, R204). -/
def firstOp (b : Backend) : Byte :=
  match b with
  | .generic => 0x90
  | .accelA => 0xAC
  | .accelB => 0xBB

/-- The start of a block: `T` and `GRP` are 0 before the loops of the unit's sequence give the one it uses a value, and the
other stays 0. DESIGN CHOICE (notes/assumptions/29.md), unsafe. -/
def Seq.startBlock (q : Seq) (b : Backend) : Seq := { q with uir := firstOp b, t := 0, grp := 0 }

/-- The start of the padding sequence for `r` trailing bytes: `FB` is the number of final blocks (R221, R227). The other
counters keep their values, which mean nothing here, and `BLK` keeps its own to the end of the command.
DESIGN CHOICE (notes/assumptions/29.md), unsafe. -/
def Seq.startPadding (q : Seq) (r : Nat) : Seq :=
  { q with uir := 0xC0, fb := if r + 1 ≤ 56 then 1 else 2 }

/-- The start of the encoder sequence by path `be` (R248): ENC.ST or ENC.SWST, `K5` 0. The other counters keep their
values, which mean nothing here. DESIGN CHOICE (notes/assumptions/29.md), unsafe. -/
def Seq.startEncode (q : Seq) (be : Bool) : Seq := { q with uir := if be then 0xD0 else 0xD1, k5 := 0 }

/-- The start of group `g` in unit A: its schedule update from group 4 on (R193). -/
def Seq.startGroupA (q : Seq) (g : Nat) : Seq :=
  { q with grp := BitVec.ofNat 5 g, uir := if 4 ≤ g then 0xA1 else 0xA8 + BitVec.ofNat 8 (g / 5) }

/-- VB.EADD in group 0, VB.NEXTE in the others (R204). -/
def eOpB (g : Nat) : Byte := if g = 0 then 0xB9 else 0xB8

/-- The start of group `g` in unit B: its schedule update from group 4 on (R204). -/
def Seq.startGroupB (q : Seq) (g : Nat) : Seq :=
  { q with grp := BitVec.ofNat 5 g, uir := if 4 ≤ g then 0xB1 else eOpB g }

/-- The four-round operation of group `g` in unit A (R193). -/
def roundOpA (g : Nat) : Byte :=
  match groupStageA g with
  | 0 => 0xA4
  | 2 => 0xA6
  | _ => 0xA5

/-- A position with nothing counted, the running command `cmd`: every counter is 0, those that R29 gives no meaning yet
too. DESIGN CHOICE (notes/assumptions/29.md), unsafe. -/
def Seq.start (cmd : Byte) : Seq := ⟨cmd, 0, 0, 0, 0, 0, 0⟩

/-! ## Issuing a command (R29, R288) -/

/-- `BUSY = 1` at position `q`. -/
def State.run (s : State) (q : Seq) : State := (s.setSeq q).setBusy true

/-- TRANSFORM, accepted: the sequence of the first block comes next; a count of 0 is done at once (R141). -/
def State.issueTransform (s : State) : Out :=
  s.onCommand fun s =>
    match s.transformCheck with
    | some c => .next (s.takeFault c 0x30)
    | none =>
      if s.len = 0 then .next s
      else if !s.env.present s.ctx.bsel then .refused .unitAbsent
      else .next (s.run ((Seq.start 0x30).startBlock s.ctx.bsel))

/-- FINALIZE, accepted: the padding sequence comes next (R227). -/
def State.issueFinalize (s : State) : Out :=
  s.onCommand fun s =>
    match s.finalizeCheck with
    | some c => .next (s.takeFault c 0x40)
    | none =>
      if !s.env.present s.ctx.bsel then .refused .unitAbsent
      else .next (s.run ((Seq.start 0x40).startPadding s.tailSize))

/-- An ENCODE, accepted: the encoder sequence comes next (R248). -/
def State.issueEncode (s : State) (be : Bool) (code : Byte) : Out :=
  s.onCommand fun s =>
    if s.ctx.phase = .final then .next (s.run ((Seq.start code).startEncode be))
    else .next (s.takeFault .sequenceError code)

/-- HASH, accepted: GETCAPS, SELECT and INIT have no micro-operations and are done in this step
(R265; notes/assumptions/19.md); the first full block, or the padding sequence, comes next, in phase ABSORB
(notes/assumptions/27.md). -/
def State.issueHash (s : State) : Out :=
  s.onCommand fun s =>
    match s.hashCheck with
    | some c => .next (s.takeFault c hashCode)
    | none =>
      match s.hashPrepare with
      | .raise c => .next (s.fillCaps.takeFault c hashCode)
      | .stop f => .fault f
      | .ok s1 =>
        .next (s1.run
          (if s1.len / 64 = 0 then (Seq.start hashCode).startPadding s1.tailSize
           else (Seq.start hashCode).startBlock s1.ctx.bsel))

/-- Issues a command. GETCAPS, the SELECTs and INIT are single steps without micro-operations (R265, R341). A
micro-operation is not issued by the host (R70); `issueByte` never calls this with one. -/
def issue (i : Instr) (s : State) : Out :=
  match i with
  | .transform => s.issueTransform
  | .finalize => s.issueFinalize
  | .encode => s.issueEncode s.env.hostBE 0x50
  | .encodeLE => s.issueEncode false 0x51
  | .encodeBE => s.issueEncode true 0x52
  | .hash => s.issueHash
  | .getcaps | .select | .selectG | .selectA | .selectB | .init
  | .ldbe32 | .stbe64 | .bswap32
  | .wrLoad | .schedLoad | .schedExp | .rndCh | .rndPar1 | .rndMaj | .rndPar2 | .feedfwd
  | .vaLdbe | .vaSu0 | .vaSu1 | .vaH | .vaR4c | .vaR4p | .vaR4m | .vaAcc | .vaAddk _ | .vaInit
  | .vbLdbe | .vbMsg1 | .vbXor | .vbMsg2 | .vbRnds4 _ | .vbNexte | .vbEadd | .vbAcc | .vbInit
  | .padCopy | .padMark | .padLen | .padZero0 | .padZero1 | .padZero2
  | .encSt | .encSwst => exec i s

/-! ## The order of the micro-operations -/

/-- The position changed by `f`. -/
def State.mapSeq (s : State) (f : Seq → Seq) : State := s.setSeq (f s.ctx.seq)

/-- The next micro-operation is `code`, the counters as they are. -/
def State.goTo (s : State) (code : Byte) : State := s.mapSeq fun q => { q with uir := code }

/-- The next micro-operation is `code` with `T = t`. -/
def State.goToT (s : State) (code : Byte) (t : Nat) : State :=
  s.mapSeq fun q => { q with uir := code, t := BitVec.ofNat 7 t }

/-- A loop over `T` of the operation `code`: again up to `last`, then `next` with `T = start` (R152). -/
def State.loopT (s : State) (code : Byte) (last : Nat) (next : Byte) (start : Nat) : State :=
  if s.tCount < last then s.goToT code (s.tCount + 1) else s.goToT next start

/-- The command under way is HASH. -/
def State.inHash (s : State) : Bool := s.ctx.seq.cmd = hashCode

/-- All full blocks are absorbed: TRANSFORM ends; HASH goes on with the padding sequence (R255). -/
def State.afterBlocks (s : State) : State :=
  if s.inHash then s.mapSeq fun q => q.startPadding s.tailSize else s.retire

/-- All final blocks are absorbed: the phase is FINAL; FINALIZE ends; HASH goes on with the encoder sequence
(R220, R255). -/
def State.afterFinal (s : State) : State :=
  let t := s.setPhase .final
  if s.inHash then t.mapSeq fun q => { q.startEncode s.env.hostBE with fb := 0 } else t.retire

/-- The number of full blocks of the command under way (R141, R255). -/
def State.blockCount (s : State) : Nat := if s.inHash then s.len / 64 else s.len

/-- A block is absorbed: the next full block, the second final block, or what comes after the last one
(R152, R227). Between two blocks W, WR and the vector registers keep what the block before left in them, as R10 has it
for what no rule writes, although R23 gives W no defined value there. DESIGN CHOICE (notes/assumptions/28.md), unsafe:
the next block writes each of them before reading it. -/
def State.afterBlock (s : State) : State :=
  let q := s.ctx.seq
  if q.fb = 0 then
    if q.blk.toNat + 1 < s.blockCount then
      s.mapSeq fun q => { q.startBlock s.ctx.bsel with blk := q.blk + 1 }
    else s.afterBlocks
  else if q.fb = 2 then s.mapSeq fun q => { q with fb := 1, uir := 0xC6 }
  else s.afterFinal

/-- A digest word is written: the next one, or the end of the command, in phase DONE (R248). -/
def State.afterWord (s : State) (code : Byte) : State :=
  if s.kCount < 4 then s.mapSeq fun q => { q with uir := code, k5 := q.k5 + 1 }
  else if s.inHash then (s.setPhase .done).retire
  else (s.setPhase .done).retireSeq

/-- The padded block in SCRATCH is complete: the per-block sequence runs on it (R227). -/
def State.toBlock (s : State) : State := s.mapSeq fun q => q.startBlock s.ctx.bsel

/-- A group of unit A is done: the next group, or VA.ACC (R193). -/
def State.afterGroupA (s : State) : State :=
  if s.group < 19 then s.mapSeq fun q => q.startGroupA (s.group + 1) else s.goTo 0xA7

/-- A group of unit B is done: the next group, or VB.ACC (R204). -/
def State.afterGroupB (s : State) : State :=
  if s.group < 19 then s.mapSeq fun q => q.startGroupB (s.group + 1) else s.goTo 0xBA

/-- The state in which the micro-operation that follows `i` is the next one (R152, R193, R204, R227, R248, R265). A
primitive stands in no micro-sequence: alone, it is the last micro-operation (notes/assumptions/14.md). A command
is no micro-operation. After the last round `T` is 0, after the last group `GRP` stays 19: R29 and the micro-sequences
give the counter no value at FEEDFWD, VA.ACC and VB.ACC. DESIGN CHOICE (notes/assumptions/29.md), unsafe. -/
def advance (i : Instr) (s : State) : State :=
  match i with
  | .getcaps | .select | .selectG | .selectA | .selectB | .init | .transform | .finalize
  | .encode | .encodeLE | .encodeBE | .hash => s
  | .ldbe32 | .stbe64 | .bswap32 => s.setBusy false
  -- unit G (R152)
  | .wrLoad => s.goToT 0x91 0
  | .schedLoad => s.loopT 0x91 15 0x92 16
  | .schedExp => s.loopT 0x92 79 0x94 0
  | .rndCh => s.loopT 0x94 19 0x95 20
  | .rndPar1 => s.loopT 0x95 39 0x96 40
  | .rndMaj => s.loopT 0x96 59 0x97 60
  | .rndPar2 => s.loopT 0x97 79 0x98 0
  | .feedfwd => s.afterBlock
  -- unit A (R193)
  | .vaInit => s.mapSeq fun q => { q with uir := 0xA0, grp := 0 }
  | .vaLdbe =>
    if s.group < 3 then s.mapSeq fun q => { q with grp := q.grp + 1 } else s.mapSeq fun q => q.startGroupA 0
  | .vaSu0 => s.goTo 0xA2
  | .vaSu1 => s.goTo (0xA8 + BitVec.ofNat 8 (s.group / 5))
  | .vaAddk _ => s.goTo 0xA3
  | .vaH => s.goTo (roundOpA s.group)
  | .vaR4c | .vaR4p | .vaR4m => s.afterGroupA
  | .vaAcc => s.afterBlock
  -- unit B (R204)
  | .vbInit => s.mapSeq fun q => { q with uir := 0xB0, grp := 0 }
  | .vbLdbe =>
    if s.group < 3 then s.mapSeq fun q => { q with grp := q.grp + 1 } else s.mapSeq fun q => q.startGroupB 0
  | .vbMsg1 => s.goTo 0xB2
  | .vbXor => s.goTo 0xB3
  | .vbMsg2 => s.goTo (eOpB s.group)
  | .vbEadd | .vbNexte => s.goTo (0xB4 + BitVec.ofNat 8 (s.group / 5))
  | .vbRnds4 _ => s.afterGroupB
  | .vbAcc => s.afterBlock
  -- padding (R227)
  | .padCopy => s.goTo 0xC1
  | .padMark => s.goTo (if s.ctx.seq.fb = 2 then 0xC5 else 0xC4)
  | .padZero0 => s.goTo 0xC3
  | .padZero1 => s.toBlock
  | .padZero2 => s.goTo 0xC3
  | .padLen => s.toBlock
  -- encoder (R248)
  | .encSt => s.afterWord 0xD0
  | .encSwst => s.afterWord 0xD1

/-- One micro-operation of the busy context in focus: the operation the position names is executed, and the position
moves on unless a fault ended the command (R29, R290). -/
def microStep (s : State) : Out :=
  match decodeMicro s.ctx.seq.uir with
  | none => .refused .unlistedMicroOp
  | some i =>
    match exec i s with
    | .next t => .next (if t.ctx.busy then advance i t else t)
    | .fault f => .fault f
    | .refused r => .refused r

/-- At most `n` micro-steps, stopping as soon as the context in focus is not busy. -/
def drain : Nat → State → Out
  | 0, s => .next s
  | n + 1, s =>
    if s.ctx.busy then
      match microStep s with
      | .next t => drain n t
      | .fault f => .fault f
      | .refused r => .refused r
    else .next s

/-! ## The moves of the host and the environment -/

/-- The host writes `c` to CMD of the context in focus, which is not busy: ignored in phase FAULT (R292),
IllegalCommand for a byte that is no command (R284), else the command (R75). `run` is `exec` for a command taken
atomically, `issue` for one taken micro-operation by micro-operation. -/
def writeCmd (run : Instr → State → Out) (c : Byte) (s : State) : Out :=
  if s.ctx.phase = .fault then .next s
  else
    match decodeCommand c with
    | some i => run i s
    | none => .next (s.takeFault .illegalCommand c)

/-- A write to register number `reg` of the context in focus, which is not busy (R33). A write to CMD takes 8 bits. -/
def writeReg (reg : Nat) (v : BitVec 64) (s : State) : Out :=
  match HostReg.ofNumber reg with
  | some .cmd => writeCmd exec (v.setWidth 8) s
  | some .opPtr => .next (s.writePtr v)
  | some .opLen => .next (s.writeLen v)
  | some .status | some .caps | some .fcmd | some (.digest _) | none => .refused .noSuchAccess

/-- A read of register number `reg` of the context in focus (R33). -/
def readMove (reg : Nat) (s : State) : Out :=
  match HostReg.ofNumber reg with
  | some .cmd | none => .refused .noSuchAccess
  | some .status => .next (s.readReg .status)
  | some .opPtr => .next (s.readReg .opPtr)
  | some .opLen => .next (s.readReg .opLen)
  | some .caps => .next (s.readReg .caps)
  | some .fcmd => .next (s.readReg .fcmd)
  | some (.digest i) => .next (s.readReg (.digest i))

/-- An agent writes the byte at `a` of host memory: never outside the space (R39), never inside the range a running
command reads (R57). -/
def storeMove (a : Nat) (b : Byte) (s : State) : Out :=
  if 2 ^ s.env.addrW ≤ a then .fault .outsideAddressSpace
  else if s.bufferInUse a then .refused .bufferInUse
  else .next { s with mem := s.mem.write a b }

/-- A move that addresses context `k`: `f` with that context in focus, if there is one (R307). -/
def onContext (k : Nat) (s : State) (f : State → Out) : Out :=
  if k < s.numCtx then f (s.focus k) else .refused .noSuchContext

/-- A move that waits for `BUSY = 0` of context `k`: while the context is busy the move stays and the engine performs
a micro-operation (R331); then the move is taken away and `f` happens. -/
def whenFree (k : Nat) (rest : List Event) (s : State) (f : State → Out) : Out :=
  onContext k s fun s => if s.ctx.busy then microStep s else f { s with events := rest }

/-- The head of the moves to come is `e`, the others are `rest` (R33, R87, R320, R331). -/
def applyEvent (e : Event) (rest : List Event) (s : State) : Out :=
  match e with
  | .write k reg v =>
    if HostReg.writable reg then whenFree k rest s (writeReg reg v) else .refused .noSuchAccess
  | .issue k c => whenFree k rest s (writeCmd issue c)
  | .read k reg => onContext k s fun s => readMove reg { s with events := rest }
  | .wait k => whenFree k rest s fun s => .next (s.readReg .status)
  | .tick k =>
    onContext k s fun s =>
      let s := { s with events := rest }
      if s.ctx.busy then microStep s else .next s
  | .store a b => storeMove a b { s with events := rest }
  | .reset v => .next (({ s with events := rest } : State).resetEvent v)

/-- The number of the first busy context. -/
def State.firstBusy (s : State) : Option Nat := s.file.findIdx? fun c => c.busy

/-- With no move to come: the first busy context goes on; if none is busy the machine waits for a command (R321;
notes/assumptions/10.md). -/
def runOn (s : State) : Out :=
  match s.firstBusy with
  | some k => microStep (s.focus k)
  | none => .next s

/-! ## Placing one operation as the next thing to happen -/

/-- The counters at the first place where a micro-operation stands in its micro-sequence (R152, R193, R204, R227,
R248), those without a meaning there 0 (notes/assumptions/29.md), and the shortest command that reaches it. A primitive
stands in none (R104): under which command it runs, named alone, is the model's choice, LDBE32 and BSWAP32 under
TRANSFORM, STBE64 under FINALIZE. DESIGN CHOICE (notes/assumptions/14.md), safe. -/
def firstPosition (i : Instr) : Seq :=
  let g (cmd : Byte) (t : BitVec 7) (grp : BitVec 5) (fb : BitVec 2) : Seq := ⟨cmd, encode i, 0, t, grp, fb, 0⟩
  match i with
  | .getcaps | .select | .selectG | .selectA | .selectB | .init | .transform | .finalize
  | .encode | .encodeLE | .encodeBE | .hash => g 0 0 0 0
  | .ldbe32 | .bswap32 => g 0x30 0 0 0
  | .stbe64 => g 0x40 0 0 1
  | .wrLoad | .schedLoad | .rndCh | .feedfwd => g 0x30 0 0 0
  | .schedExp => g 0x30 16 0 0
  | .rndPar1 => g 0x30 20 0 0
  | .rndMaj => g 0x30 40 0 0
  | .rndPar2 => g 0x30 60 0 0
  | .vaInit | .vaLdbe | .vaH | .vaR4c => g 0x30 0 0 0
  | .vaSu0 | .vaSu1 => g 0x30 0 4 0
  | .vaAddk s => g 0x30 0 (5 * s.setWidth 5) 0
  | .vaR4p => g 0x30 0 5 0
  | .vaR4m => g 0x30 0 10 0
  | .vaAcc => g 0x30 0 19 0
  | .vbInit | .vbLdbe | .vbEadd => g 0x30 0 0 0
  | .vbMsg1 | .vbXor | .vbMsg2 => g 0x30 0 4 0
  | .vbRnds4 f => g 0x30 0 (5 * f.setWidth 5) 0
  | .vbNexte => g 0x30 0 1 0
  | .vbAcc => g 0x30 0 19 0
  | .padCopy | .padMark | .padLen | .padZero0 | .padZero2 => g 0x40 0 0 1
  | .padZero1 => g 0x40 0 0 2
  | .encSt => g 0x52 0 0 0
  | .encSwst => g 0x51 0 0 0

/-- `s` with the operation of byte `c` as what the very next step runs. A command is a write to CMD of the context in
focus, with `BUSY = 0`, as the next move (R71). A micro-operation is what a busy context issues next, at the first
place it stands in its micro-sequence, and that context has the next turn (R29). -/
def State.placeByte (s : State) (c : Byte) : State :=
  if c.getLsbD 7 then
    let q : Seq := match decodeMicro c with
      | some i => firstPosition i
      | none => { Seq.start 0x30 with uir := c }
    { s.run q with events := .tick s.current :: s.events }
  else
    { s.setBusy false with events := .write s.current 0 (c.setWidth 64) :: s.events }

end Sys2Proof.Machine
end

