-- ==== Sys2Proof/Machine/Step.lean ====
section
/-!
DEFINITION. One step of the machine: the next move of the host or the environment, or, with no move to come, the next
micro-operation of the first busy context.
-/

namespace Sys2Proof.Machine

/-- One step (00_scope R10, R13; 70_reset_and_hazards R331). -/
def step (s : State) : Host.Outcome State Fault Refusal :=
  match s.events with
  | [] => runOn s
  | e :: rest => applyEvent e rest s

/-- `s` with the one-byte operation of value `w` as what the very next step runs (every operation is 8 bits, R70). -/
def State.withFetchWord (s : State) (nbits w : Nat) : State := s.placeByte (BitVec.ofNat 8 (w % 2 ^ nbits))

end Sys2Proof.Machine
end

