-- ==== Sys2Proof/Safety.lean ====
section
/-!
DEFINITION. The terms statements use: the bytes of host memory as data, a readable range, when a context accepts
commands, the invariant that every step keeps, and what it means for a running command to be at a place of its
micro-sequence, so that it never stops.
-/

namespace Sys2Proof.Machine

/-! ## Host memory as data -/

/-- The `n` bytes of host memory from address `a` on, whether or not the platform grants their reads. -/
def State.bytes (s : State) (a n : Nat) : List Byte := (List.range n).map fun i => s.mem.read (a + i)

/-- Every byte of the range lies in the address space and the platform grants its read (R52). -/
def State.Readable (s : State) (a n : Nat) : Prop :=
  a + n ≤ 2 ^ s.env.addrW ∧ ∀ i, i < n → s.env.memOk (a + i) = true

/-- Neither a null pointer with something to read (R283) nor a range outside the address space (R285). -/
def State.RangeOk (s : State) (p size : Nat) : Prop :=
  (p = nullAddr → size = 0) ∧ p + size ≤ 2 ^ s.env.addrW

/-! ## Accepting a command (R288) -/

/-- A command written to CMD now is looked at: `BUSY = 0` and the phase is not FAULT (R288 (0), (1)). -/
def State.Ready (s : State) : Prop := s.ctx.busy = false ∧ s.ctx.phase ≠ .fault

/-- The phase is IDLE or DONE (R262). -/
def State.Between (s : State) : Prop := s.ctx.phase = .idle ∨ s.ctx.phase = .done

/-- `t` is `s` after a fault with cause `c` and command byte `code` (R290), as far as R291 defines it: the context
in focus is stopped with the record, its operands, the cache, the environment, host memory, the other contexts
and the pending moves are as in `s`. -/
def State.FaultedAs (s : State) (c : Cause) (code : Byte) (t : State) : Prop :=
  t.ctx.phase = .fault ∧ t.ctx.busy = false ∧ t.ctx.fault = some c ∧ t.ctx.fcmd = code ∧
  t.ctx.opPtr = s.ctx.opPtr ∧ t.ctx.opLen = s.ctx.opLen ∧
  t.capsValid = s.capsValid ∧ t.caps = s.caps ∧ t.env = s.env ∧ t.mem = s.mem ∧
  t.before = s.before ∧ t.after = s.after ∧ t.events = s.events ∧ t.rdata = s.rdata

/-- Command or micro-operation `i` ends in a fault with cause `c` and command byte `code` (R290, R291). -/
def Faults (i : Instr) (s : State) (c : Cause) (code : Byte) : Prop :=
  ∃ t, exec i s = .next t ∧ s.FaultedAs c code t

/-- What a command leaves alone outside the context in focus: the shared state, the other contexts, host memory, the
moves to come. -/
def State.SameOutside (s t : State) : Prop :=
  t.env = s.env ∧ t.capsValid = s.capsValid ∧ t.caps = s.caps ∧ t.before = s.before ∧ t.after = s.after ∧
  t.mem = s.mem ∧ t.events = s.events ∧ t.rdata = s.rdata

/-- The phase and the further condition in which command `i` is accepted (the table of R262). What is no command is
not accepted. -/
def Accepted (i : Instr) (s : State) : Prop :=
  match i with
  | .getcaps => s.ctx.phase ≠ .fault
  | .select => s.Between ∧ s.capsValid = true
  | .selectG | .selectA | .selectB => s.Between
  | .init => s.Between ∧ s.ctx.bselValid = true
  | .transform | .finalize => s.ctx.phase = .absorb
  | .encode | .encodeLE | .encodeBE => s.ctx.phase = .final
  | .hash => s.Between
  | .ldbe32 | .stbe64 | .bswap32
  | .wrLoad | .schedLoad | .schedExp | .rndCh | .rndPar1 | .rndMaj | .rndPar2 | .feedfwd
  | .vaLdbe | .vaSu0 | .vaSu1 | .vaH | .vaR4c | .vaR4p | .vaR4m | .vaAcc | .vaAddk _ | .vaInit
  | .vbLdbe | .vbMsg1 | .vbXor | .vbMsg2 | .vbRnds4 _ | .vbNexte | .vbEadd | .vbAcc | .vbInit
  | .padCopy | .padMark | .padLen | .padZero0 | .padZero1 | .padZero2
  | .encSt | .encSwst => False

/-- The phase after command `i`, accepted in phase `p`, ends without a fault (the table of R262). -/
def phaseAfter (i : Instr) (p : Phase) : Phase :=
  match i with
  | .init => .absorb
  | .finalize => .final
  | .encode | .encodeLE | .encodeBE | .hash => .done
  | .getcaps | .select | .selectG | .selectA | .selectB | .transform
  | .ldbe32 | .stbe64 | .bswap32
  | .wrLoad | .schedLoad | .schedExp | .rndCh | .rndPar1 | .rndMaj | .rndPar2 | .feedfwd
  | .vaLdbe | .vaSu0 | .vaSu1 | .vaH | .vaR4c | .vaR4p | .vaR4m | .vaAcc | .vaAddk _ | .vaInit
  | .vbLdbe | .vbMsg1 | .vbXor | .vbMsg2 | .vbRnds4 _ | .vbNexte | .vbEadd | .vbAcc | .vbInit
  | .padCopy | .padMark | .padLen | .padZero0 | .padZero1 | .padZero2
  | .encSt | .encSwst => p

/-! ## Arithmetic as the spec writes it, on the unsigned values -/

/-- `add32(x1, ..., xm)`: the sum of the unsigned values reduced modulo 2^32 (R107). -/
def sum32 (xs : List Word) : Word := BitVec.ofNat 32 (xs.map BitVec.toNat).sum

/-- `S[o] * 2^24 + S[o+1] * 2^16 + S[o+2] * 2^8 + S[o+3]` (R100). -/
def beWord (b0 b1 b2 b3 : Byte) : Word :=
  BitVec.ofNat 32 (b0.toNat * 2 ^ 24 + b1.toNat * 2 ^ 16 + b2.toNat * 2 ^ 8 + b3.toNat)

/-- One pass of the loop of `Rounds4` (R182), on `(a, b, c, d, e)`. -/
def roundPass (f : Word → Word → Word → Word) (x : Word) (q : Quint) : Quint :=
  ⟨sum32 [q.e, f q.b q.c q.d, x, rotl32 q.a 5], q.a, rotl32 q.b 30, q.c, q.d⟩

/-- `Rounds4(F, (a, b, c, d), e, [x0, x1, x2, x3])` (R182). -/
def fourPasses (f : Word → Word → Word → Word) (v : Vec4) (e : Word) (x : Vec4) : Vec4 :=
  let q := roundPass f x.l3 (roundPass f x.l2 (roundPass f x.l1 (roundPass f x.l0 ⟨v.l0, v.l1, v.l2, v.l3, e⟩)))
  ⟨q.a, q.b, q.c, q.d⟩

/-! ## The block a unit works on (R144) -/

/-- Byte `o` of the block source: host memory at `p + 64 * BLK` while `FB = 0`, else SCRATCH. -/
def State.sourceByte (s : State) (o : Nat) : Byte :=
  if s.ctx.seq.fb = 0 then s.mem.read (s.ptr + 64 * s.ctx.seq.blk.toNat + o) else s.ctx.units.scratch.toList.getD o 0

/-- The big-endian word at offset `o` of the block source (R100). -/
def State.sourceWord (s : State) (o : Nat) : Word :=
  beWord (s.sourceByte o) (s.sourceByte (o + 1)) (s.sourceByte (o + 2)) (s.sourceByte (o + 3))

/-- The `n` bytes of the block source from offset `o` on can be read. -/
def State.SourceReadable (s : State) (o n : Nat) : Prop :=
  s.ctx.seq.fb = 0 → s.Readable (s.ptr + 64 * s.ctx.seq.blk.toNat + o) n

/-- The `n` bytes from address `a` on exist, and the platform refuses the read of one of them (R287). -/
def State.Refused (s : State) (a n : Nat) : Prop :=
  a + n ≤ 2 ^ s.env.addrW ∧ ∃ i, i < n ∧ s.env.memOk (a + i) = false

/-- The block source is host memory, and the platform refuses one of the `n` bytes from offset `o` on. -/
def State.SourceRefused (s : State) (o n : Nat) : Prop :=
  s.ctx.seq.fb = 0 ∧ s.Refused (s.ptr + 64 * s.ctx.seq.blk.toNat + o) n

/-! ## The invariant -/

/-- The ranges of the parameters (R6). -/
def Env.Wf (env : Env) : Prop :=
  7 ≤ env.addrW ∧ env.addrW ≤ 64 ∧ 2 ≤ env.capW ∧ env.capW ≤ 64 ∧ env.capABit < env.capW ∧
  env.capBBit < env.capW ∧ env.capABit ≠ env.capBBit ∧ env.capIn.toNat < 2 ^ env.capW

/-- What holds of every context: `PHASE = FAULT` if and only if `FAULT` is not 0 (R30), a faulted context is not
busy (R290), the operand registers are `ADDR_W` bits wide (R31), a computation goes on with a selected backend
(R140, R262), and a selected backend is a unit of this build (R128). -/
def Context.Wf (env : Env) (c : Context) : Prop :=
  (c.phase = .fault ↔ c.fault.isSome = true) ∧
  (c.busy = true → c.phase ≠ .fault) ∧
  c.opPtr.toNat < 2 ^ env.addrW ∧ c.opLen.toNat < 2 ^ env.addrW ∧
  (c.busy = true ∨ c.phase = .absorb ∨ c.phase = .final → c.bselValid = true) ∧
  (c.phase ≠ .fault → c.bselValid = true → env.present c.bsel = true)

/-- The invariant of the machine: legal parameters, the canonical form of host memory inside the address space, a
cache that holds the provider's one answer (R120, R121), and every context as above. -/
def State.Inv (s : State) : Prop :=
  s.env.Wf ∧ s.mem.wf = true ∧ (∀ c ∈ s.mem, c.1 < 2 ^ s.env.addrW) ∧
  s.caps.toNat < 2 ^ s.env.capW ∧ (s.capsValid = true → s.caps = s.env.capIn) ∧
  ∀ c ∈ s.file, c.Wf s.env

/-! ## A legal position of the sequencer (R29) -/

/-- The number of full blocks of the command running in `c` (R141, R255). -/
def Context.blockCount (c : Context) : Nat :=
  if c.seq.cmd = hashCode then c.opLen.toNat / 64 else c.opLen.toNat

/-- The command running in `c` is one with full blocks, TRANSFORM or HASH, and its blocks fit the space (R285). -/
def Context.BlocksFit (env : Env) (c : Context) : Prop :=
  (c.seq.cmd = 0x30 ∧ c.opPtr.toNat + 64 * c.opLen.toNat ≤ 2 ^ env.addrW) ∨
  (c.seq.cmd = hashCode ∧ c.opPtr.toNat + c.opLen.toNat ≤ 2 ^ env.addrW)

/-- The command running in `c` is one with final blocks, FINALIZE or HASH, and its range fits the space (R285). -/
def Context.TailFits (env : Env) (c : Context) : Prop :=
  (c.seq.cmd = 0x40 ∧ c.opPtr.toNat + c.opLen.toNat % 64 ≤ 2 ^ env.addrW) ∨
  (c.seq.cmd = hashCode ∧ c.opPtr.toNat + c.opLen.toNat ≤ 2 ^ env.addrW)

/-- A unit works on a block: a full block below the count (`FB = 0`), or a final block (`FB` 1 or 2). -/
def Context.InBlock (env : Env) (c : Context) (b : Backend) : Prop :=
  c.phase = .absorb ∧ c.bsel = b ∧
  ((c.seq.fb = 0 ∧ c.seq.blk.toNat < c.blockCount ∧ c.BlocksFit env) ∨
   ((c.seq.fb = 1 ∨ c.seq.fb = 2) ∧ c.TailFits env))

/-- Padding is under way, `fb` final blocks to go. -/
def Context.InPadding (env : Env) (c : Context) : Prop := c.phase = .absorb ∧ c.TailFits env

/-- The encoder is under way (R248). -/
def Context.InEncode (c : Context) : Prop :=
  c.phase = .final ∧ c.seq.k5.toNat ≤ 4 ∧
  (c.seq.cmd = 0x50 ∨ c.seq.cmd = 0x51 ∨ c.seq.cmd = 0x52 ∨ c.seq.cmd = hashCode)

/-- The place at which micro-operation `i` stands in the micro-sequences (R152, R193, R204, R227, R248). -/
def Context.LegalAt (env : Env) (c : Context) (i : Instr) : Prop :=
  let t := c.seq.t.toNat
  let g := c.seq.grp.toNat
  match i with
  | .getcaps | .select | .selectG | .selectA | .selectB | .init | .transform | .finalize
  | .encode | .encodeLE | .encodeBE | .hash | .ldbe32 | .stbe64 | .bswap32 => False
  | .wrLoad | .feedfwd => c.InBlock env .generic
  | .schedLoad => c.InBlock env .generic ∧ t ≤ 15
  | .schedExp => c.InBlock env .generic ∧ 16 ≤ t ∧ t ≤ 79
  | .rndCh => c.InBlock env .generic ∧ t ≤ 19
  | .rndPar1 => c.InBlock env .generic ∧ 20 ≤ t ∧ t ≤ 39
  | .rndMaj => c.InBlock env .generic ∧ 40 ≤ t ∧ t ≤ 59
  | .rndPar2 => c.InBlock env .generic ∧ 60 ≤ t ∧ t ≤ 79
  | .vaInit | .vaAcc => c.InBlock env .accelA
  | .vaLdbe => c.InBlock env .accelA ∧ g ≤ 3
  | .vaSu0 | .vaSu1 => c.InBlock env .accelA ∧ 4 ≤ g ∧ g ≤ 19
  | .vaAddk s => c.InBlock env .accelA ∧ g ≤ 19 ∧ s.toNat = g / 5
  | .vaH => c.InBlock env .accelA ∧ g ≤ 19
  | .vaR4c => c.InBlock env .accelA ∧ g < 5
  | .vaR4p => c.InBlock env .accelA ∧ ((5 ≤ g ∧ g < 10) ∨ (15 ≤ g ∧ g ≤ 19))
  | .vaR4m => c.InBlock env .accelA ∧ 10 ≤ g ∧ g < 15
  | .vbInit | .vbAcc => c.InBlock env .accelB
  | .vbLdbe => c.InBlock env .accelB ∧ g ≤ 3
  | .vbMsg1 | .vbXor | .vbMsg2 => c.InBlock env .accelB ∧ 4 ≤ g ∧ g ≤ 19
  | .vbEadd => c.InBlock env .accelB ∧ g = 0
  | .vbNexte => c.InBlock env .accelB ∧ 1 ≤ g ∧ g ≤ 19
  | .vbRnds4 f => c.InBlock env .accelB ∧ g ≤ 19 ∧ f.toNat = g / 5
  | .padCopy | .padMark => c.InPadding env ∧ (c.seq.fb = 1 ∨ c.seq.fb = 2)
  | .padZero0 | .padZero2 | .padLen => c.InPadding env ∧ c.seq.fb = 1
  | .padZero1 => c.InPadding env ∧ c.seq.fb = 2
  | .encSt | .encSwst => c.InEncode

/-- A busy context stands at a place of a micro-sequence. -/
def Context.Legal (env : Env) (c : Context) : Prop :=
  c.busy = true → ∃ i, decodeMicro c.seq.uir = some i ∧ c.LegalAt env i

/-- Every context stands at a place of a micro-sequence, if it is busy. -/
def State.Legal (s : State) : Prop := ∀ c ∈ s.file, c.Legal s.env

/-! ## Whose turn it is -/

/-- The context that a move addresses (R33, R87, R307). A store by another agent and a reset address none. -/
def Event.target (e : Event) : Option Nat :=
  match e with
  | .write k _ _ | .issue k _ | .read k _ | .wait k | .tick k => some k
  | .store _ _ | .reset _ => none

/-- The context whose turn the next step is: the one the next move addresses; with no move to come the first busy one
(notes/assumptions/10.md). -/
def State.mover (s : State) : Option Nat :=
  match s.events with
  | [] => s.firstBusy
  | e :: _ => e.target

/-! ## Runs -/

/-- The outcome is a next state. -/
def Runs (o : Out) : Prop := ∃ t, o = .next t

/-- Exactly `n` micro-steps of the context in focus. -/
def microSteps : Nat → State → Out
  | 0, s => .next s
  | n + 1, s =>
    match microStep s with
    | .next t => microSteps n t
    | .fault f => .fault f
    | .refused r => .refused r

/-- The current block of the context in focus holds the bytes `bk`, and each of them can be read. -/
def State.BlockIs (s : State) (bk : List Byte) : Prop :=
  bk.length = 64 ∧ ∀ o, o < 64 → s.blockByte o = .ok (byteAt bk o)

end Sys2Proof.Machine
end

