-- ==== Sys2Proof/Certificates/Slice0/Obligations.lean ====
section
/-!
DEFINITION. The statements for the provers, one `def Obligations.<Name> : Prop` each. OBLIGATIONS.json says which rule of
spec/ each formalises. A clause `decodeCommand 0x.. = some ..` or `decodeMicro 0x.. = some ..` is the rule's "Encoding".
No statement says anything of a free value.
-/

open Sys2Proof Sys2Proof.Machine

/-! ## Decoding and encoding -/

/-- Decode and encode agree, for every byte and every operation, every field value included (R75; tier 3). -/
def Obligations.DecodeEncode : Prop := ∀ (c : Byte) (i : Instr), decode c = some i ↔ encode i = c

/-- A byte written to CMD names a command exactly if it is one of the twelve codes; bit 7 set, or 0x00, never does
(R72, R78). And some codes written out from the tables of R72 and R74, one or more of each family. -/
def Obligations.OperationCodes : Prop :=
  (∀ c : Byte, (decodeCommand c).isSome = true ↔
    c ∈ ([0x01, 0x10, 0x11, 0x12, 0x13, 0x20, 0x30, 0x40, 0x50, 0x51, 0x52, 0x60] : List Byte)) ∧
  decode 0x01 = some .getcaps ∧ decode 0x13 = some .selectB ∧ decode 0x30 = some .transform ∧
  decode 0x52 = some .encodeBE ∧ decode 0x82 = some .bswap32 ∧ decode 0x92 = some .schedExp ∧
  decode 0xA7 = some .vaAcc ∧ decode 0xAA = some (.vaAddk 2) ∧ decode 0xAC = some .vaInit ∧
  decode 0xB7 = some (.vbRnds4 3) ∧ decode 0xBB = some .vbInit ∧ decode 0xC3 = some .padLen ∧
  decode 0xC6 = some .padZero2 ∧ decode 0xD1 = some .encSwst ∧ decode 0x00 = none ∧ decode 0xC7 = none

/-! ## A step of the machine -/

/-- A byte written to CMD of a context that is neither busy nor in phase FAULT runs the command it names, on that
context, the move taken away (R71, R307). Two clauses hold more than the rules say, by the model's choice: that a write
of a value wider than a byte is the write of its low 8 bits (notes/assumptions/12.md), and that the same write can be
issued to run micro-operation by micro-operation (notes/assumptions/2.md). -/
def Obligations.StepRunsCommand : Prop :=
  ∀ (s : State) (k : Nat) (rest : List Event) (i : Instr), k < s.numCtx → (s.focus k).Ready →
    (∀ v : BitVec 64, s.events = .write k 0 v :: rest → decodeCommand (v.setWidth 8) = some i →
      step s = exec i { s.focus k with events := rest }) ∧
    (∀ c : Byte, s.events = .issue k c :: rest → decodeCommand c = some i →
      step s = issue i { s.focus k with events := rest })

/-- A busy context runs the micro-operation its position names, and the position moves on unless the command has
ended (R29, R330). When a context has its turn is the model's scheduler, not the spec's (notes/assumptions/10.md): at a
tick, or with no move to come as the first busy context. -/
def Obligations.StepRunsMicroOperation : Prop :=
  ∀ (s : State) (k : Nat) (i : Instr), k < s.numCtx → (s.focus k).ctx.busy = true →
    decodeMicro (s.focus k).ctx.seq.uir = some i →
    (∀ rest, s.events = .tick k :: rest →
      step s = match exec i { s.focus k with events := rest } with
        | .next t => .next (if t.ctx.busy then advance i t else t)
        | .fault f => .fault f
        | .refused r => .refused r) ∧
    (s.events = [] → s.firstBusy = some k →
      step s = match exec i (s.focus k) with
        | .next t => .next (if t.ctx.busy then advance i t else t)
        | .fault f => .fault f
        | .refused r => .refused r)

/-- While a context is busy, a write to its CMD, OP_PTR or OP_LEN is held: the move stays and the operands do not change
(R331). That the step is meanwhile exactly one micro-operation of that same context is the model's choice
(notes/assumptions/10.md, 25.md). -/
def Obligations.WriteHeldWhileBusy : Prop :=
  ∀ (s : State) (k : Nat) (e : Event) (rest : List Event), s.events = e :: rest → k < s.numCtx →
    (s.focus k).ctx.busy = true →
    (∃ reg v, e = .write k reg v ∧ HostReg.writable reg = true) ∨ (∃ c, e = .issue k c) →
    step s = microStep (s.focus k) ∧
    ∀ t, step s = .next t → t.events = s.events ∧
      t.ctx.opPtr = (s.focus k).ctx.opPtr ∧ t.ctx.opLen = (s.focus k).ctx.opLen

/-- A host write of OP_PTR or OP_LEN of a context that is not busy, in any phase, FAULT included, changes that register
and nothing else (R31, R33, R292); the register keeps ADDR_W bits (the model's choice, notes/assumptions/12.md). -/
def Obligations.OperandWrites : Prop :=
  ∀ (s : State) (k : Nat) (v : BitVec 64) (rest : List Event), k < s.numCtx → (s.focus k).ctx.busy = false →
    let x := BitVec.ofNat 64 (v.toNat % 2 ^ s.env.addrW)
    (s.events = .write k 2 v :: rest →
      step s = .next { s.focus k with events := rest, ctx := { (s.focus k).ctx with opPtr := x } }) ∧
    (s.events = .write k 3 v :: rest →
      step s = .next { s.focus k with events := rest, ctx := { (s.focus k).ctx with opLen := x } })

/-- STATUS is the view of other state that R32 draws. -/
def Obligations.StatusFields : Prop :=
  ∀ s : State,
    s.status.extractLsb' 0 3 = (match s.ctx.phase with
      | .idle => (0 : BitVec 3) | .absorb => 1 | .final => 2 | .done => 3 | .fault => 7) ∧
    s.status.extractLsb' 3 1 = BitVec.ofBool s.ctx.busy ∧
    s.status.extractLsb' 4 3 = (match s.ctx.fault with
      | none => (0 : BitVec 3) | some .nullBuffer => 1 | some .unsupportedBackend => 2 | some .illegalCommand => 3
      | some .sequenceError => 4 | some .addressRange => 5 | some .accessFault => 6) ∧
    s.status.extractLsb' 7 1 = BitVec.ofBool s.capsValid ∧
    s.status.extractLsb' 8 1 = BitVec.ofBool s.ctx.bselValid ∧
    (s.ctx.bselValid = true → s.status.extractLsb' 9 2 = (match s.ctx.bsel with
      | .generic => (0 : BitVec 2) | .accelA => 1 | .accelB => 2)) ∧
    s.status.extractLsb' 11 1 = BitVec.ofBool s.env.hostBE ∧
    s.status.extractLsb' 12 1 = BitVec.ofBool s.env.hasA ∧
    s.status.extractLsb' 13 1 = BitVec.ofBool s.env.hasB ∧
    s.status.extractLsb' 14 18 = 0

/-- A host read answers the register's value, zero-extended, where the spec gives it one, in any phase and busy or not,
and changes nothing else (R33); every other access is one the host does not have (the model refuses it by name,
notes/assumptions/22.md). -/
def Obligations.RegisterReads : Prop :=
  ∀ (s : State) (k n : Nat) (rest : List Event), s.events = .read k n :: rest → k < s.numCtx →
    let c := (s.focus k).ctx
    (HostReg.readable n = false → step s = .refused .noSuchAccess) ∧
    (HostReg.readable n = true → ∃ t, step s = .next t ∧
      t = { s.focus k with events := rest, rdata := t.rdata, free := t.free } ∧
      (n = 1 → t.rdata = ({ s.focus k with events := rest } : State).status.setWidth 64) ∧
      (n = 2 → t.rdata = c.opPtr) ∧
      (n = 3 → t.rdata = c.opLen) ∧
      (n = 4 → s.capsValid = true → t.rdata = s.caps) ∧
      (n = 5 → c.fault ≠ none → t.rdata = c.fcmd.setWidth 64) ∧
      (∀ i (h : i < 20), n = 32 + i → c.phase = .done → c.busy = false → t.rdata = (c.digest[i]).setWidth 64))

/-- What a store by another agent does to host memory: the byte stored to and no other byte changes, and nothing else
(R39). A store outside the address space has no address to go to, and a store into the range that a running command
reads is a move no agent has (R57): the model stops on both by name (notes/assumptions/20.md, 21.md). -/
def Obligations.StoreMoves : Prop :=
  ∀ (s : State) (a : Nat) (b : Byte) (rest : List Event), s.events = .store a b :: rest →
    (2 ^ s.env.addrW ≤ a → step s = .fault .outsideAddressSpace) ∧
    (a < 2 ^ s.env.addrW → s.bufferInUse a = true → step s = .refused .bufferInUse) ∧
    (a < 2 ^ s.env.addrW → s.bufferInUse a = false → s.mem.wf = true →
      ∃ t, step s = .next t ∧ t = { s with events := rest, mem := t.mem } ∧ t.mem.wf = true ∧
        ∀ a', t.mem.read a' = if a' = a then b else s.mem.read a')

/-! ## Reset -/

/-- The values that R40 gives hold in State.reset. Of what R40 calls unspecified nothing is said. -/
def Obligations.ResetState : Prop :=
  (∀ c ∈ State.reset.file, c.phase = .idle ∧ c.busy = false ∧ c.fault = none ∧ c.bselValid = false) ∧
  State.reset.capsValid = false

/-- A reset event, at any moment, for all contexts and the cache together (R320): the values of R40; straps, the other
parameters and host memory as they were; as many contexts as there were. Of the provider's answer, which may differ in
the new domain (R321), and of what R40 calls unspecified, nothing is said. -/
def Obligations.ResetEvent : Prop :=
  ∀ (s : State) (v : BitVec 64) (rest : List Event), s.events = .reset v :: rest →
    ∃ t, step s = .next t ∧
      (∀ c ∈ t.file, c.phase = .idle ∧ c.busy = false ∧ c.fault = none ∧ c.bselValid = false) ∧
      t.file.length = s.file.length ∧ t.capsValid = false ∧ t.mem = s.mem ∧ t.events = rest ∧
      t.env = { s.env with capIn := t.env.capIn }

/-! ## Faults -/

/-- A byte written to CMD of a context that is neither busy nor in phase FAULT, and that is not one of the twelve
command codes, raises IllegalCommand; FCMD is the byte itself (R284). That both forms of the write do so
(notes/assumptions/2.md), and that a value wider than a byte counts as its low 8 bits (notes/assumptions/12.md), is the
model's choice. -/
def Obligations.IllegalCommand : Prop :=
  ∀ (s : State) (k : Nat) (c : Byte) (rest : List Event),
    (∃ v : BitVec 64, v.setWidth 8 = c ∧ s.events = .write k 0 v :: rest) ∨ s.events = .issue k c :: rest →
    k < s.numCtx → (s.focus k).Ready →
    c ∉ ([0x01, 0x10, 0x11, 0x12, 0x13, 0x20, 0x30, 0x40, 0x50, 0x51, 0x52, 0x60] : List Byte) →
    ∃ t, step s = .next t ∧ ({ s.focus k with events := rest } : State).FaultedAs .illegalCommand c t

/-- In phase FAULT every write to CMD is ignored, whatever the value, and every command leaves everything as it is
(R292). That it is so for values wider than a byte (notes/assumptions/12.md) and for the issued form of the write and of
the command (notes/assumptions/2.md) is the model's choice. -/
def Obligations.FaultIgnoresCommands : Prop :=
  (∀ (s : State) (k : Nat) (rest : List Event),
    (∃ v : BitVec 64, s.events = .write k 0 v :: rest) ∨ (∃ c : Byte, s.events = .issue k c :: rest) →
    k < s.numCtx → (s.focus k).ctx.phase = .fault → (s.focus k).ctx.busy = false →
    step s = .next { s.focus k with events := rest }) ∧
  ∀ (i : Instr) (s : State), i.isCommand = true → s.ctx.phase = .fault →
    exec i s = .next s ∧ issue i s = .next s

/-- NullBuffer exactly for a null pointer with something to read, before the range is looked at; AddressRange exactly
for a range that leaves the address space, whose end may be 2^ADDR_W itself (R283, R285, R288). -/
def Obligations.OperandFaults : Prop :=
  ∀ s : State, s.Ready →
    (Accepted .transform s →
      (Faults .transform s .nullBuffer 0x30 ↔ s.ptr = 0 ∧ s.len ≠ 0) ∧
      (Faults .transform s .addressRange 0x30 ↔ ¬(s.ptr = 0 ∧ s.len ≠ 0) ∧ 2 ^ s.env.addrW < s.ptr + 64 * s.len)) ∧
    (Accepted .finalize s →
      (Faults .finalize s .nullBuffer 0x40 ↔ s.ptr = 0 ∧ s.len % 64 ≠ 0) ∧
      (Faults .finalize s .addressRange 0x40 ↔
        ¬(s.ptr = 0 ∧ s.len % 64 ≠ 0) ∧ 2 ^ s.env.addrW < s.ptr + s.len % 64)) ∧
    (Accepted .hash s →
      (Faults .hash s .nullBuffer 0x60 ↔ s.ptr = 0 ∧ s.len ≠ 0) ∧
      (Faults .hash s .addressRange 0x60 ↔ ¬(s.ptr = 0 ∧ s.len ≠ 0) ∧ 2 ^ s.env.addrW < s.ptr + s.len))

/-- The tag Select gives (R124) names a unit that this build does not have. -/
def Obligations.UnsupportedBackend : Prop :=
  ∀ s : State, s.Ready →
    (Accepted .select s →
      (Faults .select s .unsupportedBackend 0x10 ↔
        (s.caps.getLsbD s.env.capABit = true ∧ s.env.hasA = false) ∨
        (s.caps.getLsbD s.env.capABit = false ∧ s.caps.getLsbD s.env.capBBit = true ∧ s.env.hasB = false))) ∧
    (Accepted .selectA s → (Faults .selectA s .unsupportedBackend 0x12 ↔ s.env.hasA = false)) ∧
    (Accepted .selectB s → (Faults .selectB s .unsupportedBackend 0x13 ↔ s.env.hasB = false)) ∧
    (Accepted .hash s → s.RangeOk s.ptr s.len →
      let caps := if s.capsValid then s.caps else s.env.capIn
      ((∃ t, exec .hash s = .next t ∧
        ({ s with caps := caps, capsValid := true } : State).FaultedAs .unsupportedBackend 0x60 t) ↔
        (caps.getLsbD s.env.capABit = true ∧ s.env.hasA = false) ∨
        (caps.getLsbD s.env.capABit = false ∧ caps.getLsbD s.env.capBBit = true ∧ s.env.hasB = false)))

/-- A byte of the command's range that the platform refuses raises AccessFault, whichever unit is selected (R287); in
HASH the cache has been filled by then (R290). -/
def Obligations.AccessFaults : Prop :=
  ∀ s : State, s.Ready →
    (Accepted .transform s → s.RangeOk s.ptr (64 * s.len) → s.env.present s.ctx.bsel = true →
      s.Refused s.ptr (64 * s.len) → Faults .transform s .accessFault 0x30) ∧
    (Accepted .finalize s → s.RangeOk s.ptr (s.len % 64) → s.env.present s.ctx.bsel = true →
      s.Refused s.ptr (s.len % 64) → Faults .finalize s .accessFault 0x40) ∧
    (Accepted .hash s → s.RangeOk s.ptr s.len →
      let caps := if s.capsValid then s.caps else s.env.capIn
      s.env.present (selectTag s.env caps) = true → s.Refused s.ptr s.len →
      ∃ t, exec .hash s = .next t ∧
        ({ s with caps := caps, capsValid := true } : State).FaultedAs .accessFault 0x60 t)

/-- The table of R262: a command that is looked at raises SequenceError exactly where the table does not accept it
(R286), and a command that ends without a fault leaves the phase the table gives. -/
def Obligations.PhaseTable : Prop :=
  ∀ (i : Instr) (s : State), i.isCommand = true → s.Ready →
    (Faults i s .sequenceError (encode i) ↔ ¬ Accepted i s) ∧
    ∀ t, exec i s = .next t → t.ctx.phase = .fault ∨ t.ctx.phase = phaseAfter i s.ctx.phase

/-! ## Commands -/

/-- GETCAPS (R120): the cache is filled if it is empty, and nothing else changes. -/
def Obligations.Getcaps : Prop :=
  decodeCommand 0x01 = some .getcaps ∧
  ∀ s : State, s.Ready →
    exec .getcaps s = .next (if s.capsValid then s else { s with caps := s.env.capIn, capsValid := true })

/-- SELECT (R123) with the truth table of R124. -/
def Obligations.Select : Prop :=
  decodeCommand 0x10 = some .select ∧
  ∀ s : State, s.Ready →
    (¬(s.Between ∧ s.capsValid = true) → Faults .select s .sequenceError 0x10) ∧
    (s.Between → s.capsValid = true →
      ∀ t : Backend, t = (match s.caps.getLsbD s.env.capABit, s.caps.getLsbD s.env.capBBit with
        | false, false => .generic | false, true => .accelB | true, false => .accelA | true, true => .accelA) →
      (s.env.present t = false → Faults .select s .unsupportedBackend 0x10) ∧
      (s.env.present t = true →
        exec .select s = .next { s with ctx := { s.ctx with bsel := t, bselValid := true } }))

/-- SELECT.G, SELECT.A, SELECT.B (R125 to R127): they ignore the cache. -/
def Obligations.ForcedSelection : Prop :=
  decodeCommand 0x11 = some .selectG ∧ decodeCommand 0x12 = some .selectA ∧ decodeCommand 0x13 = some .selectB ∧
  ∀ s : State, s.Ready →
    (¬ s.Between → Faults .selectG s .sequenceError 0x11 ∧ Faults .selectA s .sequenceError 0x12 ∧
      Faults .selectB s .sequenceError 0x13) ∧
    (s.Between →
      exec .selectG s = .next { s with ctx := { s.ctx with bsel := .generic, bselValid := true } } ∧
      (s.env.hasA = true →
        exec .selectA s = .next { s with ctx := { s.ctx with bsel := .accelA, bselValid := true } }) ∧
      (s.env.hasA = false → Faults .selectA s .unsupportedBackend 0x12) ∧
      (s.env.hasB = true →
        exec .selectB s = .next { s with ctx := { s.ctx with bsel := .accelB, bselValid := true } }) ∧
      (s.env.hasB = false → Faults .selectB s .unsupportedBackend 0x13))

/-- INIT (R140): H is the IV and the phase ABSORB; of the rest of the state only DIGEST, lost here (R333), may
change. -/
def Obligations.Init : Prop :=
  decodeCommand 0x20 = some .init ∧
  ∀ s : State, s.Ready →
    (¬(s.Between ∧ s.ctx.bselValid = true) → Faults .init s .sequenceError 0x20) ∧
    (s.Between → s.ctx.bselValid = true → ∃ t, exec .init s = .next t ∧ s.SameOutside t ∧
      t.ctx = { s.ctx with
        h := ⟨0x67452301, 0xEFCDAB89, 0x98BADCFE, 0x10325476, 0xC3D2E1F0⟩, phase := .absorb, digest := t.ctx.digest })

/-- TRANSFORM completes on a readable range (R141, R153): H is the compression of the blocks at `p`, in order, by the
function of R142, whichever unit is selected (R131). WR, W, the vector registers and the position hold no defined
value afterwards (R22, R23, R29); nothing else changes. A count of 0 does nothing at all. -/
def Obligations.Transform : Prop :=
  decodeCommand 0x30 = some .transform ∧
  ∀ s : State, s.Ready → s.ctx.phase = .absorb → s.RangeOk s.ptr (64 * s.len) →
    (s.len = 0 → exec .transform s = .next s) ∧
    (s.env.present s.ctx.bsel = true → s.Readable s.ptr (64 * s.len) →
      ∃ t, exec .transform s = .next t ∧ s.SameOutside t ∧
        t.ctx = { s.ctx with
          h := compressBlocks s.ctx.h (s.bytes s.ptr (64 * s.len)) s.len, units := t.ctx.units, seq := t.ctx.seq })

/-- FINALIZE completes on a readable tail (R220): H is the compression of the one or two final blocks of R221, the
phase FINAL; SCRATCH, WR, W, the vector registers and the position hold no defined value afterwards; nothing else
changes. -/
def Obligations.Finalize : Prop :=
  decodeCommand 0x40 = some .finalize ∧
  ∀ s : State, s.Ready → s.ctx.phase = .absorb → s.RangeOk s.ptr (s.len % 64) → s.env.present s.ctx.bsel = true →
    s.Readable s.ptr (s.len % 64) →
    ∃ t, exec .finalize s = .next t ∧ s.SameOutside t ∧
      t.ctx = { s.ctx with
        h := (pad (s.bytes s.ptr (s.len % 64)) s.len).foldl compress s.ctx.h
        phase := .final, units := t.ctx.units, seq := t.ctx.seq }

/-- ENCODE, ENCODE.LE, ENCODE.BE (R240 to R242): the twenty bytes of R85, the same by every path whatever HOST_BE is,
and phase DONE; the position holds no defined value afterwards; nothing else changes. -/
def Obligations.Encode : Prop :=
  decodeCommand 0x50 = some .encode ∧ decodeCommand 0x51 = some .encodeLE ∧ decodeCommand 0x52 = some .encodeBE ∧
  ∀ (i : Instr) (s : State), i = .encode ∨ i = .encodeLE ∨ i = .encodeBE → s.Ready →
    (s.ctx.phase ≠ .final → Faults i s .sequenceError (encode i)) ∧
    (s.ctx.phase = .final → ∃ t, exec i s = .next t ∧ s.SameOutside t ∧
      t.ctx = { s.ctx with phase := .done, digest := t.ctx.digest, seq := t.ctx.seq } ∧
      ∀ (k j : Nat) (hk : k < 5) (hj : j < 4), t.ctx.digest[4 * k + j] = (s.ctx.h.get k).extractLsb' (24 - 8 * j) 8)

/-- HASH ends in DONE (R15, R255, R256), for every placement that can be read, every parameter and every selection whose
unit is there, with the rest of R255's end state. For a buffer whose bit length fits 64 bits the digest is its SHA-1
digest: that claim carries the premise of R15 and R226. For a longer one HASH still completes, with the definite value
that the truncated length gives (R226, D18, U1), and nothing is claimed of it as a SHA-1 digest. -/
def Obligations.HashIsSha1 : Prop :=
  decodeCommand 0x60 = some .hash ∧
  ∀ s : State, s.Ready → s.Between → s.RangeOk s.ptr s.len → s.Readable s.ptr s.len →
    let caps := if s.capsValid then s.caps else s.env.capIn
    s.env.present (selectTag s.env caps) = true →
    let b := s.bytes s.ptr s.len
    let n := s.len / 64
    ∃ t, exec .hash s = .next t ∧ (8 * s.len < 2 ^ 64 → t.ctx.digest.toList = sha1 b) ∧
      t.ctx.digest.toList = digestBytes t.ctx.h ∧
      t.ctx.h = (pad (b.drop (64 * n)) s.len).foldl compress (compressBlocks iv b n) ∧
      ({ s with caps := caps, capsValid := true } : State).SameOutside t ∧
      t.ctx = { s.ctx with
        phase := .done, bsel := selectTag s.env caps, bselValid := true, h := t.ctx.h, digest := t.ctx.digest
        units := t.ctx.units, seq := t.ctx.seq }

/-- The digest is a function of the buffer's bytes and length alone (R259, R16): two machines that agree on nothing
but the bytes of their buffers give the same digest. -/
def Obligations.HashDependsOnBufferOnly : Prop :=
  ∀ s1 s2 t1 t2 : State, s1.Ready → s2.Ready → s1.len = s2.len → s1.bytes s1.ptr s1.len = s2.bytes s2.ptr s2.len →
    exec .hash s1 = .next t1 → exec .hash s2 = .next t2 → t1.ctx.phase = .done → t2.ctx.phase = .done →
    t1.ctx.digest = t2.ctx.digest

/-! ## Functions of data -/

/-- `rotl32` (R106): its value, that it moves every bit, that it distributes over `^`, how two rotations compose. -/
def Obligations.RotateLeft : Prop :=
  ∀ (x : Word) (n : Nat), 1 ≤ n → n ≤ 31 →
    (rotl32 x n).toNat = (x.toNat * 2 ^ n % 2 ^ 32) ||| (x.toNat / 2 ^ (32 - n)) ∧
    (∀ i, i < 32 → (rotl32 x n).getLsbD ((i + n) % 32) = x.getLsbD i) ∧
    (∀ y, rotl32 (x ^^^ y) n = rotl32 x n ^^^ rotl32 y n) ∧
    ∀ m, 1 ≤ m → m ≤ 31 → (m + n) % 32 ≠ 0 → rotl32 (rotl32 x m) n = rotl32 x ((m + n) % 32)

/-- The schedule of a block (R142 step 1): sixteen big-endian words, then the recurrence. -/
def Obligations.ScheduleRecurrence : Prop :=
  ∀ bk : List Byte, (schedule bk).length = 80 ∧
    (∀ j, j < 16 → (schedule bk).getD j 0 =
      beWord (bk.getD (4 * j) 0) (bk.getD (4 * j + 1) 0) (bk.getD (4 * j + 2) 0) (bk.getD (4 * j + 3) 0)) ∧
    ∀ i, 16 ≤ i → i < 80 → (schedule bk).getD i 0 =
      rotl32 ((schedule bk).getD (i - 3) 0 ^^^ (schedule bk).getD (i - 8) 0 ^^^ (schedule bk).getD (i - 14) 0 ^^^
        (schedule bk).getD (i - 16) 0) 1

/-- The three units compute the same function of a state and a block (R181). -/
def Obligations.BackendsAgree : Prop :=
  ∀ (h : Quint) (bk : List Byte), compressA h bk = compress h bk ∧ compressB h bk = compress h bk

/-- Many blocks (R153): no block leaves the state, one block first and then the rest, and blocks X and then blocks Y give
what X followed by Y gives. -/
def Obligations.ManyBlocks : Prop :=
  ∀ (h : Quint) (x y : List Byte) (n m : Nat), x.length = 64 * n →
    compressBlocks h x 0 = h ∧
    (n = 1 → compressBlocks h (x ++ y) (1 + m) = compressBlocks (compress h x) y m) ∧
    compressBlocks h (x ++ y) (n + m) = compressBlocks (compressBlocks h x n) y m

/-- The padding function (R221, R226): one block for a tail of at most 55 bytes, else two, of 64 bytes each; read on
end they are the tail, 0x80, zeros, and `8 * n` truncated to 64 bits as eight bytes, most significant first. And how
many blocks are compressed for a message of `L` bytes: `(L + 8) div 64 + 1` (R257). The length field drops what `8 * n`
has above 64 bits, so it is exact for `n < 2^61`, the premise of the claim about SHA-1 (R226). -/
def Obligations.PaddingShape : Prop :=
  (∀ (t : List Byte) (n : Nat), t.length ≤ 63 →
    (pad t n).length = (if t.length ≤ 55 then 1 else 2) ∧ (∀ b ∈ pad t n, b.length = 64) ∧
    ∃ z, z < 64 ∧ (pad t n).flatten =
      t ++ [0x80] ++ List.replicate z 0 ++
        (List.range 8).map fun i => BitVec.ofNat 8 (n * 8 % 2 ^ 64 / 2 ^ (8 * (7 - i)))) ∧
  (∀ n : Nat, (mul8 n).toNat = 8 * (n % 2 ^ 61)) ∧
  ∀ b : List Byte,
    b.length / 64 + (pad (b.drop (64 * (b.length / 64))) b.length).length = (b.length + 8) / 64 + 1

/-! ## Primitives named alone -/

/-- The three primitives (R100, R102, R103). Where operand and result stand is the model's choice
(notes/assumptions/14.md): offset, word and double word `prim`, and SCRATCH[56..64) for STBE64. -/
def Obligations.Primitives : Prop :=
  decodeMicro 0x80 = some .ldbe32 ∧ decodeMicro 0x81 = some .stbe64 ∧ decodeMicro 0x82 = some .bswap32 ∧
  ∀ s : State,
    let u := s.ctx.units
    (u.prim.off.toNat ≤ 60 →
      (s.SourceReadable u.prim.off.toNat 4 → exec .ldbe32 s =
        .next (s.setUnits { u with prim := { u.prim with x := s.sourceWord u.prim.off.toNat } })) ∧
      (s.SourceRefused u.prim.off.toNat 4 → Faults .ldbe32 s .accessFault s.ctx.seq.cmd)) ∧
    (∃ sc : Vector Byte 64, exec .stbe64 s = .next (s.setUnits { u with scratch := sc }) ∧
      ∀ (i : Nat) (h : i < 64), sc[i] =
        if 56 ≤ i then u.prim.v.extractLsb' (56 - 8 * (i - 56)) 8 else u.scratch[i]) ∧
    exec .bswap32 s = .next (s.setUnits { u with prim := { u.prim with
      x := u.prim.x.extractLsb' 0 8 ++ u.prim.x.extractLsb' 8 8 ++ u.prim.x.extractLsb' 16 8
        ++ u.prim.x.extractLsb' 24 8 } })

/-! ## Unit G -/

/-- WR.LOAD (R143) and FEEDFWD (R151). -/
def Obligations.LoadAndFeedForward : Prop :=
  decodeMicro 0x90 = some .wrLoad ∧ decodeMicro 0x98 = some .feedfwd ∧
  ∀ s : State,
    exec .wrLoad s = .next (s.setUnits { s.ctx.units with wr := s.ctx.h }) ∧
    exec .feedfwd s = .next (s.setH
      ⟨sum32 [s.ctx.h.a, s.ctx.units.wr.a], sum32 [s.ctx.h.b, s.ctx.units.wr.b], sum32 [s.ctx.h.c, s.ctx.units.wr.c],
       sum32 [s.ctx.h.d, s.ctx.units.wr.d], sum32 [s.ctx.h.e, s.ctx.units.wr.e]⟩)

/-- SCHED.LOAD (R144): big-endian word `T` of the block, from host memory or SCRATCH; the platform's refusal of a byte
is an AccessFault. -/
def Obligations.ScheduleLoad : Prop :=
  decodeMicro 0x91 = some .schedLoad ∧
  ∀ (s : State) (t : Nat) (h : t ≤ 15), s.ctx.seq.t.toNat = t →
    (s.SourceReadable (4 * t) 4 → exec .schedLoad s =
      .next (s.setUnits { s.ctx.units with w := s.ctx.units.w.set t (s.sourceWord (4 * t)) })) ∧
    (s.SourceRefused (4 * t) 4 → Faults .schedLoad s .accessFault s.ctx.seq.cmd)

/-- SCHED.EXP (R145). -/
def Obligations.ScheduleExpand : Prop :=
  decodeMicro 0x92 = some .schedExp ∧
  ∀ (s : State) (t : Nat) (h : 16 ≤ t ∧ t ≤ 79), s.ctx.seq.t.toNat = t →
    let w := s.ctx.units.w
    exec .schedExp s = .next (s.setUnits { s.ctx.units with
      w := w.set t (rotl32 (w[t - 3] ^^^ w[t - 8] ^^^ w[t - 14] ^^^ w[t - 16]) 1) })

/-- RND.CH, RND.PAR1, RND.MAJ, RND.PAR2 (R147 to R150): one round on `W[T]`, the five new values from the five old. -/
def Obligations.ScalarRounds : Prop :=
  decodeMicro 0x94 = some .rndCh ∧ decodeMicro 0x95 = some .rndPar1 ∧ decodeMicro 0x96 = some .rndMaj ∧
  decodeMicro 0x97 = some .rndPar2 ∧
  ∀ (s : State) (t : Nat) (h : t < 80), s.ctx.seq.t.toNat = t →
    let u := s.ctx.units
    let q := u.wr
    let after (f k : Word) : Host.Outcome State Fault Refusal := .next (s.setUnits { u with
      wr := ⟨sum32 [q.e, f, u.w[t], k, rotl32 q.a 5], q.a, rotl32 q.b 30, q.c, q.d⟩ })
    (t ≤ 19 → exec .rndCh s = after ((q.b &&& q.c) ||| (~~~q.b &&& q.d)) 0x5A827999) ∧
    (20 ≤ t ∧ t ≤ 39 → exec .rndPar1 s = after (q.b ^^^ q.c ^^^ q.d) 0x6ED9EBA1) ∧
    (40 ≤ t ∧ t ≤ 59 →
      exec .rndMaj s = after ((q.b &&& q.c) ||| (q.b &&& q.d) ||| (q.c &&& q.d)) 0x8F1BBCDC) ∧
    (60 ≤ t → exec .rndPar2 s = after (q.b ^^^ q.c ^^^ q.d) 0xCA62C1D6)

/-! ## Units A and B -/

/-- VA.INIT (R183) and VB.INIT (R195). -/
def Obligations.VectorInit : Prop :=
  decodeMicro 0xAC = some .vaInit ∧ decodeMicro 0xBB = some .vbInit ∧
  ∀ s : State,
    let u := s.ctx.units
    let h := s.ctx.h
    (s.env.hasA = true → exec .vaInit s =
      .next (s.setUnits { u with va := { u.va with abcd := ⟨h.a, h.b, h.c, h.d⟩, e0 := h.e } })) ∧
    (s.env.hasB = true → exec .vbInit s =
      .next (s.setUnits { u with vb := { u.vb with abcd := ⟨h.a, h.b, h.c, h.d⟩ } }))

/-- VA.LDBE (R184) and VB.LDBE (R196), `g` in 0..3. -/
def Obligations.VectorLoad : Prop :=
  decodeMicro 0xA0 = some .vaLdbe ∧ decodeMicro 0xB0 = some .vbLdbe ∧
  ∀ (s : State) (g : Nat), g ≤ 3 → s.ctx.seq.grp.toNat = g →
    let u := s.ctx.units
    let v : Vec4 :=
      ⟨s.sourceWord (16 * g), s.sourceWord (16 * g + 4), s.sourceWord (16 * g + 8), s.sourceWord (16 * g + 12)⟩
    (s.env.hasA = true →
      (s.SourceReadable (16 * g) 16 → exec .vaLdbe s =
        .next (s.setUnits { u with va := { u.va with m := u.va.m.set g v } })) ∧
      (s.SourceRefused (16 * g) 16 → Faults .vaLdbe s .accessFault s.ctx.seq.cmd)) ∧
    (s.env.hasB = true →
      (s.SourceReadable (16 * g) 16 → exec .vbLdbe s =
        .next (s.setUnits { u with vb := { u.vb with m := u.vb.m.set g v } })) ∧
      (s.SourceRefused (16 * g) 16 → Faults .vbLdbe s .accessFault s.ctx.seq.cmd))

/-- VA.SU0 and VA.SU1 (R185, R186), lane by lane. -/
def Obligations.ScheduleUnitA : Prop :=
  decodeMicro 0xA1 = some .vaSu0 ∧ decodeMicro 0xA2 = some .vaSu1 ∧
  ∀ s : State, s.env.hasA = true →
    let g := s.ctx.seq.grp.toNat
    let u := s.ctx.units
    let m := u.va.m
    let t := u.va.t
    exec .vaSu0 s = .next (s.setUnits { u with va := { u.va with
      t := ⟨(m.get g).l0 ^^^ (m.get g).l2 ^^^ (m.get (g + 2)).l0,
            (m.get g).l1 ^^^ (m.get g).l3 ^^^ (m.get (g + 2)).l1,
            (m.get g).l2 ^^^ (m.get (g + 1)).l0 ^^^ (m.get (g + 2)).l2,
            (m.get g).l3 ^^^ (m.get (g + 1)).l1 ^^^ (m.get (g + 2)).l3⟩ } }) ∧
    exec .vaSu1 s = .next (s.setUnits { u with va := { u.va with
      m := m.set g
        ⟨rotl32 (t.l0 ^^^ (m.get (g + 3)).l1) 1,
         rotl32 (t.l1 ^^^ (m.get (g + 3)).l2) 1,
         rotl32 (t.l2 ^^^ (m.get (g + 3)).l3) 1,
         rotl32 t.l3 1 ^^^ rotl32 (t.l0 ^^^ (m.get (g + 3)).l1) 2⟩ } })

/-- VA.ADDK.s (R187), for every stage `s`, and VA.H (R188). -/
def Obligations.AddConstantUnitA : Prop :=
  (∀ k : BitVec 2, decodeMicro (0xA8 + k.setWidth 8) = some (.vaAddk k)) ∧ decodeMicro 0xA3 = some .vaH ∧
  ∀ s : State, s.env.hasA = true →
    let u := s.ctx.units
    let x := u.va.m.get s.ctx.seq.grp.toNat
    (∀ k : BitVec 2,
      let c : Word := match k.toNat with
        | 0 => 0x5A827999 | 1 => 0x6ED9EBA1 | 2 => 0x8F1BBCDC | _ => 0xCA62C1D6
      exec (.vaAddk k) s = .next (s.setUnits { u with va := { u.va with
        wk := ⟨sum32 [x.l0, c], sum32 [x.l1, c], sum32 [x.l2, c], sum32 [x.l3, c]⟩ } })) ∧
    exec .vaH s = .next (s.setUnits { u with va := { u.va with e1 := rotl32 u.va.abcd.l0 30 } })

/-- VA.R4C, VA.R4P, VA.R4M (R189 to R191): four passes of R182 with the function named, the constant being in VA_WK
already; then VA_E0 is VA_E1. -/
def Obligations.FourRoundsUnitA : Prop :=
  decodeMicro 0xA4 = some .vaR4c ∧ decodeMicro 0xA5 = some .vaR4p ∧ decodeMicro 0xA6 = some .vaR4m ∧
  ∀ s : State, s.env.hasA = true →
    let u := s.ctx.units
    let v := u.va
    exec .vaR4c s = .next (s.setUnits { u with va := { v with
      abcd := fourPasses (fun b c d => (b &&& c) ||| (~~~b &&& d)) v.abcd v.e0 v.wk, e0 := v.e1 } }) ∧
    exec .vaR4p s = .next (s.setUnits { u with va := { v with
      abcd := fourPasses (fun b c d => b ^^^ c ^^^ d) v.abcd v.e0 v.wk, e0 := v.e1 } }) ∧
    exec .vaR4m s = .next (s.setUnits { u with va := { v with
      abcd := fourPasses (fun b c d => (b &&& c) ||| (b &&& d) ||| (c &&& d)) v.abcd v.e0 v.wk, e0 := v.e1 } })

/-- VA.ACC (R192) and VB.ACC (R203): the new H. -/
def Obligations.VectorAccumulate : Prop :=
  decodeMicro 0xA7 = some .vaAcc ∧ decodeMicro 0xBA = some .vbAcc ∧
  ∀ s : State,
    let h := s.ctx.h
    let a := s.ctx.units.va
    let b := s.ctx.units.vb
    (s.env.hasA = true → exec .vaAcc s = .next (s.setH
      ⟨sum32 [h.a, a.abcd.l0], sum32 [h.b, a.abcd.l1], sum32 [h.c, a.abcd.l2], sum32 [h.d, a.abcd.l3],
       sum32 [h.e, a.e0]⟩)) ∧
    (s.env.hasB = true → exec .vbAcc s = .next (s.setH
      ⟨sum32 [h.a, b.abcd.l0], sum32 [h.b, b.abcd.l1], sum32 [h.c, b.abcd.l2], sum32 [h.d, b.abcd.l3],
       sum32 [h.e, rotl32 b.prev.l0 30]⟩))

/-- VB.MSG1, VB.XOR, VB.MSG2 (R197 to R199), lane by lane; lane 3 of VB.MSG2 uses lane 0 just computed. -/
def Obligations.ScheduleUnitB : Prop :=
  decodeMicro 0xB1 = some .vbMsg1 ∧ decodeMicro 0xB2 = some .vbXor ∧ decodeMicro 0xB3 = some .vbMsg2 ∧
  ∀ s : State, s.env.hasB = true →
    let g := s.ctx.seq.grp.toNat
    let u := s.ctx.units
    let m := u.vb.m
    let t := u.vb.t
    exec .vbMsg1 s = .next (s.setUnits { u with vb := { u.vb with
      t := ⟨(m.get g).l0 ^^^ (m.get g).l2, (m.get g).l1 ^^^ (m.get g).l3,
            (m.get g).l2 ^^^ (m.get (g + 1)).l0, (m.get g).l3 ^^^ (m.get (g + 1)).l1⟩ } }) ∧
    exec .vbXor s = .next (s.setUnits { u with vb := { u.vb with
      t := ⟨t.l0 ^^^ (m.get (g + 2)).l0, t.l1 ^^^ (m.get (g + 2)).l1, t.l2 ^^^ (m.get (g + 2)).l2,
            t.l3 ^^^ (m.get (g + 2)).l3⟩ } }) ∧
    exec .vbMsg2 s = .next (s.setUnits { u with vb := { u.vb with
      m := m.set g
        ⟨rotl32 (t.l0 ^^^ (m.get (g + 3)).l1) 1,
         rotl32 (t.l1 ^^^ (m.get (g + 3)).l2) 1,
         rotl32 (t.l2 ^^^ (m.get (g + 3)).l3) 1,
         rotl32 (t.l3 ^^^ rotl32 (t.l0 ^^^ (m.get (g + 3)).l1) 1) 1⟩ } })

/-- VB.EADD (R200) and VB.NEXTE (R201): only lane 0 is added to. -/
def Obligations.AddEUnitB : Prop :=
  decodeMicro 0xB9 = some .vbEadd ∧ decodeMicro 0xB8 = some .vbNexte ∧
  ∀ s : State, s.env.hasB = true →
    let u := s.ctx.units
    let x0 := u.vb.m.m0
    let x := u.vb.m.get s.ctx.seq.grp.toNat
    exec .vbEadd s = .next (s.setUnits { u with vb := { u.vb with
      ew := ⟨sum32 [x0.l0, s.ctx.h.e], x0.l1, x0.l2, x0.l3⟩ } }) ∧
    exec .vbNexte s = .next (s.setUnits { u with vb := { u.vb with
      ew := ⟨sum32 [x.l0, rotl32 u.vb.prev.l0 30], x.l1, x.l2, x.l3⟩ } })

/-- VB.RNDS4.f (R202), for every function `f`: four passes of R182 from `e = 0`, the constant added lane by lane. -/
def Obligations.FourRoundsUnitB : Prop :=
  (∀ f : BitVec 2, decodeMicro (0xB4 + f.setWidth 8) = some (.vbRnds4 f)) ∧
  ∀ s : State, s.env.hasB = true →
    let u := s.ctx.units
    let x := u.vb.ew
    let after (f : BitVec 2) (fn : Word → Word → Word → Word) (k : Word) : Prop :=
      exec (.vbRnds4 f) s = .next (s.setUnits { u with vb := { u.vb with
        abcd := fourPasses fn u.vb.abcd 0 ⟨sum32 [x.l0, k], sum32 [x.l1, k], sum32 [x.l2, k], sum32 [x.l3, k]⟩
        prev := u.vb.abcd } })
    after 0 (fun b c d => (b &&& c) ||| (~~~b &&& d)) 0x5A827999 ∧
    after 1 (fun b c d => b ^^^ c ^^^ d) 0x6ED9EBA1 ∧
    after 2 (fun b c d => (b &&& c) ||| (b &&& d) ||| (c &&& d)) 0x8F1BBCDC ∧
    after 3 (fun b c d => b ^^^ c ^^^ d) 0xCA62C1D6

/-! ## Padding and encoder micro-operations -/

/-- PAD.COPY (R222): the `r = n mod 64` trailing bytes; those of HASH begin at `p + 64 * (L div 64)` (R255). -/
def Obligations.PadCopy : Prop :=
  decodeMicro 0xC0 = some .padCopy ∧
  ∀ s : State,
    let r := s.len % 64
    let p := if s.ctx.seq.cmd = 0x60 then s.ptr + 64 * (s.len / 64) else s.ptr
    (s.Readable p r → ∃ sc : Vector Byte 64, exec .padCopy s = .next (s.setUnits { s.ctx.units with scratch := sc }) ∧
      ∀ (i : Nat) (h : i < 64), sc[i] = if i < r then s.mem.read (p + i) else s.ctx.units.scratch[i]) ∧
    (s.Refused p r → Faults .padCopy s .accessFault s.ctx.seq.cmd)

/-- PAD.MARK (R223) and PAD.LEN (R225): 0x80 at `r`; `8 * n` truncated to 64 bits, most significant byte first, in the
last eight bytes. -/
def Obligations.PadMarkAndLength : Prop :=
  decodeMicro 0xC1 = some .padMark ∧ decodeMicro 0xC3 = some .padLen ∧
  ∀ s : State,
    (∃ sc : Vector Byte 64, exec .padMark s = .next (s.setUnits { s.ctx.units with scratch := sc }) ∧
      ∀ (i : Nat) (h : i < 64), sc[i] = if i = s.len % 64 then 0x80 else s.ctx.units.scratch[i]) ∧
    (∃ sc : Vector Byte 64, exec .padLen s = .next (s.setUnits { s.ctx.units with scratch := sc }) ∧
      ∀ (i : Nat) (h : i < 64), sc[i] =
        if 56 ≤ i then BitVec.ofNat 8 (s.len * 8 % 2 ^ 64 / 2 ^ (8 * (63 - i))) else s.ctx.units.scratch[i])

/-- PAD.ZERO.m (R224), the three ranges. -/
def Obligations.PadZero : Prop :=
  decodeMicro 0xC4 = some .padZero0 ∧ decodeMicro 0xC5 = some .padZero1 ∧ decodeMicro 0xC6 = some .padZero2 ∧
  decodeMicro 0xC7 = none ∧
  ∀ s : State,
    let cleared (i : Instr) (lo hi : Nat) : Prop :=
      ∃ sc : Vector Byte 64, exec i s = .next (s.setUnits { s.ctx.units with scratch := sc }) ∧
        ∀ (j : Nat) (h : j < 64), sc[j] = if lo ≤ j ∧ j < hi then 0 else s.ctx.units.scratch[j]
    cleared .padZero0 (s.len % 64 + 1) 56 ∧ cleared .padZero1 (s.len % 64 + 1) 64 ∧ cleared .padZero2 0 56

/-- ENC.SWST (R243) and ENC.ST (R244): digest word `K5`, most significant byte first by either path; no other digest
byte changes. -/
def Obligations.EncodeWord : Prop :=
  decodeMicro 0xD1 = some .encSwst ∧ decodeMicro 0xD0 = some .encSt ∧
  ∀ (i : Instr) (s : State) (k : Nat), i = .encSt ∨ i = .encSwst → s.ctx.seq.k5.toNat = k → k ≤ 4 →
    ∃ d : Vector Byte 20, exec i s = .next (s.setDigest d) ∧
      ∀ (j : Nat) (h : j < 20), d[j] =
        if j / 4 = k then (s.ctx.h.get k).extractLsb' (24 - 8 * (j % 4)) 8 else s.ctx.digest[j]

/-- Where a micro-operation stops, by the model's choice (notes/assumptions/15.md, 16.md): outside the counter's range
its rule gives, and in a build without its unit. The sequencer leads to neither. -/
def Obligations.MicroOperationStops : Prop :=
  ∀ s : State,
    (15 < s.ctx.seq.t.toNat → exec .schedLoad s = .refused .counterOutOfRange) ∧
    (s.ctx.seq.t.toNat < 16 ∨ 79 < s.ctx.seq.t.toNat → exec .schedExp s = .refused .counterOutOfRange) ∧
    (4 < s.ctx.seq.k5.toNat →
      exec .encSt s = .refused .counterOutOfRange ∧ exec .encSwst s = .refused .counterOutOfRange) ∧
    (60 < s.ctx.units.prim.off.toNat → exec .ldbe32 s = .refused .counterOutOfRange) ∧
    (∀ i : Instr, i ∈ ([.rndCh, .rndPar1, .rndMaj, .rndPar2] : List Instr) → 79 < s.ctx.seq.t.toNat →
      exec i s = .refused .counterOutOfRange) ∧
    (3 < s.ctx.seq.grp.toNat →
      (s.env.hasA = true → exec .vaLdbe s = .refused .counterOutOfRange) ∧
      (s.env.hasB = true → exec .vbLdbe s = .refused .counterOutOfRange)) ∧
    (s.env.hasA = false → ∀ (i : Instr) (k : BitVec 2),
      i ∈ [.vaLdbe, .vaSu0, .vaSu1, .vaH, .vaR4c, .vaR4p, .vaR4m, .vaAcc, .vaAddk k, .vaInit] →
      exec i s = .refused .unitAbsent) ∧
    (s.env.hasB = false → ∀ (i : Instr) (f : BitVec 2),
      i ∈ [.vbLdbe, .vbMsg1, .vbXor, .vbMsg2, .vbRnds4 f, .vbNexte, .vbEadd, .vbAcc, .vbInit] →
      exec i s = .refused .unitAbsent)

/-! ## Micro-sequences -/

/-- The micro-sequences of the three units (R152, R193, R204), from their first micro-operation on a block: after 162,
98 or 94 micro-steps, the last of which is the accumulation followed by `advance`, H has become `Compress(H, block)`;
of the rest of the state only that unit's own registers, `T`, `GRP` and the next operation's code have changed. -/
def Obligations.UnitSequences : Prop :=
  ∀ (s : State) (bk : List Byte), s.ctx.busy = true → s.BlockIs bk →
    let r := s.ctx.units
    let done (n : Nat) (last : Instr) (own : Units → Units) : Prop :=
      ∃ u : State, microSteps n s = .next (advance last u) ∧
        u = { s with ctx := { s.ctx with
          h := compress s.ctx.h bk
          units := own u.ctx.units
          seq := { s.ctx.seq with uir := u.ctx.seq.uir, t := u.ctx.seq.t, grp := u.ctx.seq.grp } } }
    (s.ctx.seq.uir = 0x90 → done 162 .feedfwd fun x => { r with wr := x.wr, w := x.w }) ∧
    (s.ctx.seq.uir = 0xAC → s.env.hasA = true → done 98 .vaAcc fun x => { r with va := x.va }) ∧
    (s.ctx.seq.uir = 0xBB → s.env.hasB = true → done 94 .vbAcc fun x => { r with vb := x.vb })

/-- The two descriptions of a command agree (R10): issuing it and running its micro-operations to the end gives exactly
the state of the command taken atomically, faults included; where the one stops, the other stops alike. -/
def Obligations.CommandRefinement : Prop :=
  ∀ (i : Instr) (s : State), i.isCommand = true → s.ctx.busy = false →
    match issue i s with
    | .next t => ∃ n, drain n t = exec i s
    | .fault f => exec i s = .fault f
    | .refused r => exec i s = .refused r

/-! ## The whole machine -/

/-- No command and no micro-operation writes host memory (R54), the operand registers (R31, R334), the straps and
parameters (R34), another context (R307), the moves to come, or what the host last read. -/
def Obligations.EngineFrame : Prop :=
  ∀ (i : Instr) (s t : State), exec i s = .next t →
    (∀ a, t.mem.read a = s.mem.read a) ∧ t.ctx.opPtr = s.ctx.opPtr ∧ t.ctx.opLen = s.ctx.opLen ∧ t.env = s.env ∧
    t.before = s.before ∧ t.after = s.after ∧ t.events = s.events ∧ t.rdata = s.rdata ∧
    (t.caps = s.caps ∧ t.capsValid = s.capsValid ∨
      (i = .getcaps ∨ i = .hash) ∧ s.capsValid = false ∧ t.caps = s.env.capIn ∧ t.capsValid = true) ∧
    (t.ctx.fault = s.ctx.fault ∧ t.ctx.fcmd = s.ctx.fcmd ∨ t.ctx.phase = .fault)

/-- A step that is no reset changes no context but the one its turn belongs to, `State.mover`: the context that the move
names; none for a store by another agent; with no move to come the first busy context, none if none is busy (R307; that
the first busy one goes on is the model's choice, notes/assumptions/10.md). -/
def Obligations.StepIsolation : Prop :=
  ∀ s t : State, step s = .next t → (∀ v rest, s.events ≠ .reset v :: rest) →
    t.file.length = s.file.length ∧ ∀ j : Nat, s.mover ≠ some j → t.file[j]? = s.file[j]?

/-- The invariant holds at reset, and no context is inside a command. The parameters and the registers without a reset
value have the model's values there (notes/assumptions/1.md, 3.md). -/
def Obligations.ResetInv : Prop := State.reset.Inv ∧ State.reset.Legal

/-- Every step keeps the invariant: legal parameters, canonical memory inside the address space, the cache, and in every
context FAULT exactly in phase FAULT (R30), operands of ADDR_W bits (R31), a selected unit that is there while a
computation goes on (R128, R262). -/
def Obligations.StepKeepsInv : Prop := ∀ s t : State, s.Inv → step s = .next t → t.Inv

/-- No step of a machine with legal positions stops, and the positions stay legal, as long as the next move is one an
agent has: no unit that is absent, no counter out of range, no unlisted micro-operation is ever reached (R29, R75,
R128, R258). -/
def Obligations.StepRunsOn : Prop :=
  ∀ s : State, s.Inv → s.Legal →
    (∀ e rest, s.events = e :: rest → Event.wf s.numCtx s.env.addrW e = true ∧
      ∀ a b, e = .store a b → s.bufferInUse a = false) →
    ∃ t, step s = .next t ∧ t.Legal

/-- Phase FAULT is left by reset alone: whatever else happens, the context stays in it, not busy, with the first
fault's record (R292, R321). -/
def Obligations.OnlyResetLeavesFault : Prop :=
  ∀ (s t : State) (k : Nat) (c : Context), s.Inv → step s = .next t → (∀ v rest, s.events ≠ .reset v :: rest) →
    s.file[k]? = some c → c.phase = .fault →
    ∃ c', t.file[k]? = some c' ∧ c'.phase = .fault ∧ c'.busy = false ∧ c'.fault = c.fault ∧ c'.fcmd = c.fcmd

/-- One selection per computation: no step changes BSEL or BSEL_VALID of a context in phase ABSORB or FINAL, unless it
ends in phase FAULT or is a reset (R26, R130). -/
def Obligations.SelectionFixed : Prop :=
  ∀ (s t : State) (k : Nat) (c c' : Context), step s = .next t → (∀ v rest, s.events ≠ .reset v :: rest) →
    s.file[k]? = some c → c.phase = .absorb ∨ c.phase = .final → t.file[k]? = some c' → c'.phase ≠ .fault →
    c'.bsel = c.bsel ∧ c'.bselValid = c.bselValid

/-- Once filled the cache does not change until reset, and while it is empty no step but a filling with the provider's
answer changes it (R27, R62, R121). -/
def Obligations.CacheWrittenOnce : Prop :=
  ∀ s t : State, step s = .next t → (∀ v rest, s.events ≠ .reset v :: rest) →
    t.env = s.env ∧
    (t.capsValid = s.capsValid ∧ t.caps = s.caps ∨
      s.capsValid = false ∧ t.capsValid = true ∧ t.caps = s.env.capIn)
end

