-- ==== Sys2Proof/Laws/Memory.lean ====
section
/-!
SUPPORT. Host memory: read after write, and that every operation keeps the canonical form.
-/

namespace Sys2Proof.Machine

@[simp] theorem Memory.read_nil (a : Nat) : Memory.read [] a = Config.memDefault := rfl

@[simp] theorem Memory.read_cons (k : Nat) (v : Byte) (rest : Memory) (a : Nat) :
    Memory.read ((k, v) :: rest) a = if k = a then v else Memory.read rest a := rfl

/-- In canonical form every listed address lies above the head's. -/
theorem Memory.wf_cons {k : Nat} {v : Byte} {rest : Memory} :
    Memory.wf ((k, v) :: rest) = true ↔
      v ≠ Config.memDefault ∧ (∀ c ∈ rest, k < c.1) ∧ Memory.wf rest = true := by
  simp [Memory.wf, List.all_eq_true, and_assoc]

/-- An address below every listed one reads as the default. -/
theorem Memory.read_below (m : Memory) (a : Nat) (h : ∀ c ∈ m, a < c.1) : m.read a = Config.memDefault := by
  induction m with
  | nil => rfl
  | cons c rest ih =>
    obtain ⟨k, v⟩ := c
    have hk : a < k := h (k, v) (by simp)
    rw [Memory.read_cons, if_neg (by omega)]
    exact ih fun c hc => h c (List.mem_cons_of_mem _ hc)

/-- Reading the address written gives the byte written. -/
theorem Memory.read_write_same (m : Memory) (a : Nat) (b : Byte) (h : m.wf = true) : (m.write a b).read a = b := by
  induction m with
  | nil => by_cases hb : b = Config.memDefault <;> simp [Memory.write, hb]
  | cons c rest ih =>
    obtain ⟨k, v⟩ := c
    obtain ⟨_, hlt, hwf⟩ := Memory.wf_cons.mp h
    have hbelow : a ≤ k → ∀ c ∈ rest, a < c.1 := fun hak c hc => by have := hlt c hc; omega
    unfold Memory.write
    split_ifs with h1 h2 h3 h4
    · rw [Memory.read_cons, if_neg (by omega), Memory.read_below rest a (hbelow (by omega)), h2]
    · simp
    · rw [Memory.read_below rest a (hbelow (by omega)), h4]
    · simp
    · rw [Memory.read_cons, if_neg (by omega), ih hwf]

/-- Reading any other address gives what it gave before. -/
theorem Memory.read_write_other (m : Memory) (a a' : Nat) (b : Byte) (h : m.wf = true) (hne : a' ≠ a) :
    (m.write a b).read a' = m.read a' := by
  induction m with
  | nil => by_cases hb : b = Config.memDefault <;> simp [Memory.write, hb, Ne.symm hne]
  | cons c rest ih =>
    obtain ⟨k, v⟩ := c
    obtain ⟨_, _, hwf⟩ := Memory.wf_cons.mp h
    unfold Memory.write
    split_ifs with h1 h2 h3 h4
    · rfl
    · simp [Ne.symm hne]
    · simp [← h3, Ne.symm hne]
    · simp [← h3, Ne.symm hne]
    · simp [ih hwf]

/-- What a write can list: the address written, or an address listed before. -/
theorem Memory.mem_write {m : Memory} {a : Nat} {b : Byte} {c : Host.Cell} (h : c ∈ m.write a b) :
    c.1 = a ∨ c ∈ m := by
  induction m with
  | nil => by_cases hb : b = Config.memDefault <;> simp_all [Memory.write]
  | cons d rest ih =>
    obtain ⟨k, v⟩ := d
    unfold Memory.write at h
    split_ifs at h with h1 h2 h3 h4
    · exact .inr h
    · rcases List.mem_cons.mp h with rfl | h
      · exact .inl rfl
      · exact .inr h
    · exact .inr (List.mem_cons_of_mem _ h)
    · rcases List.mem_cons.mp h with rfl | h
      · exact .inl rfl
      · exact .inr (List.mem_cons_of_mem _ h)
    · rcases List.mem_cons.mp h with rfl | h
      · exact .inr (List.mem_cons_self ..)
      · exact (ih h).imp_right (List.mem_cons_of_mem _)

/-- A write keeps the canonical form. -/
theorem Memory.wf_write (m : Memory) (a : Nat) (b : Byte) (h : m.wf = true) : (m.write a b).wf = true := by
  induction m with
  | nil => by_cases hb : b = Config.memDefault <;> simp [Memory.write, hb, Memory.wf]
  | cons c rest ih =>
    obtain ⟨k, v⟩ := c
    obtain ⟨hv, hlt, hwf⟩ := Memory.wf_cons.mp h
    unfold Memory.write
    split_ifs with h1 h2 h3 h4
    · exact h
    · refine Memory.wf_cons.mpr ⟨h2, ?_, h⟩
      intro c hc
      rcases List.mem_cons.mp hc with rfl | hc
      · exact h1
      · have := hlt c hc; omega
    · exact hwf
    · exact Memory.wf_cons.mpr ⟨h4, fun c hc => by have := hlt c hc; omega, hwf⟩
    · refine Memory.wf_cons.mpr ⟨hv, ?_, ih hwf⟩
      intro c hc
      rcases Memory.mem_write hc with hca | hc
      · omega
      · exact hlt c hc

/-- The memory of the reset state is in canonical form. -/
theorem reset_mem_wf : State.reset.mem.wf = true := rfl

end Sys2Proof.Machine
end

