-- ==== Sys2Proof/Laws/State.lean ====
section
/-!
SUPPORT. One lemma per field per update of the context in focus, true by definition, so that no later proof unfolds
a record update; and the same for the end of a command and for taking a fault.
-/

namespace Sys2Proof.Machine

variable (s : State)

/-! `State.setH` -/

@[simp] theorem State.setH_env (q : Quint) : (s.setH q).env = s.env := rfl
@[simp] theorem State.setH_capsValid (q : Quint) : (s.setH q).capsValid = s.capsValid := rfl
@[simp] theorem State.setH_caps (q : Quint) : (s.setH q).caps = s.caps := rfl
@[simp] theorem State.setH_before (q : Quint) : (s.setH q).before = s.before := rfl
@[simp] theorem State.setH_after (q : Quint) : (s.setH q).after = s.after := rfl
@[simp] theorem State.setH_mem (q : Quint) : (s.setH q).mem = s.mem := rfl
@[simp] theorem State.setH_events (q : Quint) : (s.setH q).events = s.events := rfl
@[simp] theorem State.setH_rdata (q : Quint) : (s.setH q).rdata = s.rdata := rfl
@[simp] theorem State.setH_free (q : Quint) : (s.setH q).free = s.free := rfl
@[simp] theorem State.setH_ctx_phase (q : Quint) : (s.setH q).ctx.phase = s.ctx.phase := rfl
@[simp] theorem State.setH_ctx_busy (q : Quint) : (s.setH q).ctx.busy = s.ctx.busy := rfl
@[simp] theorem State.setH_ctx_fault (q : Quint) : (s.setH q).ctx.fault = s.ctx.fault := rfl
@[simp] theorem State.setH_ctx_fcmd (q : Quint) : (s.setH q).ctx.fcmd = s.ctx.fcmd := rfl
@[simp] theorem State.setH_ctx_opPtr (q : Quint) : (s.setH q).ctx.opPtr = s.ctx.opPtr := rfl
@[simp] theorem State.setH_ctx_opLen (q : Quint) : (s.setH q).ctx.opLen = s.ctx.opLen := rfl
@[simp] theorem State.setH_ctx_bsel (q : Quint) : (s.setH q).ctx.bsel = s.ctx.bsel := rfl
@[simp] theorem State.setH_ctx_bselValid (q : Quint) : (s.setH q).ctx.bselValid = s.ctx.bselValid := rfl
@[simp] theorem State.setH_ctx_h (q : Quint) : (s.setH q).ctx.h = q := rfl
@[simp] theorem State.setH_ctx_digest (q : Quint) : (s.setH q).ctx.digest = s.ctx.digest := rfl
@[simp] theorem State.setH_ctx_units (q : Quint) : (s.setH q).ctx.units = s.ctx.units := rfl
@[simp] theorem State.setH_ctx_seq (q : Quint) : (s.setH q).ctx.seq = s.ctx.seq := rfl

/-! `State.setUnits` -/

@[simp] theorem State.setUnits_env (u : Units) : (s.setUnits u).env = s.env := rfl
@[simp] theorem State.setUnits_capsValid (u : Units) : (s.setUnits u).capsValid = s.capsValid := rfl
@[simp] theorem State.setUnits_caps (u : Units) : (s.setUnits u).caps = s.caps := rfl
@[simp] theorem State.setUnits_before (u : Units) : (s.setUnits u).before = s.before := rfl
@[simp] theorem State.setUnits_after (u : Units) : (s.setUnits u).after = s.after := rfl
@[simp] theorem State.setUnits_mem (u : Units) : (s.setUnits u).mem = s.mem := rfl
@[simp] theorem State.setUnits_events (u : Units) : (s.setUnits u).events = s.events := rfl
@[simp] theorem State.setUnits_rdata (u : Units) : (s.setUnits u).rdata = s.rdata := rfl
@[simp] theorem State.setUnits_free (u : Units) : (s.setUnits u).free = s.free := rfl
@[simp] theorem State.setUnits_ctx_phase (u : Units) : (s.setUnits u).ctx.phase = s.ctx.phase := rfl
@[simp] theorem State.setUnits_ctx_busy (u : Units) : (s.setUnits u).ctx.busy = s.ctx.busy := rfl
@[simp] theorem State.setUnits_ctx_fault (u : Units) : (s.setUnits u).ctx.fault = s.ctx.fault := rfl
@[simp] theorem State.setUnits_ctx_fcmd (u : Units) : (s.setUnits u).ctx.fcmd = s.ctx.fcmd := rfl
@[simp] theorem State.setUnits_ctx_opPtr (u : Units) : (s.setUnits u).ctx.opPtr = s.ctx.opPtr := rfl
@[simp] theorem State.setUnits_ctx_opLen (u : Units) : (s.setUnits u).ctx.opLen = s.ctx.opLen := rfl
@[simp] theorem State.setUnits_ctx_bsel (u : Units) : (s.setUnits u).ctx.bsel = s.ctx.bsel := rfl
@[simp] theorem State.setUnits_ctx_bselValid (u : Units) : (s.setUnits u).ctx.bselValid = s.ctx.bselValid := rfl
@[simp] theorem State.setUnits_ctx_h (u : Units) : (s.setUnits u).ctx.h = s.ctx.h := rfl
@[simp] theorem State.setUnits_ctx_digest (u : Units) : (s.setUnits u).ctx.digest = s.ctx.digest := rfl
@[simp] theorem State.setUnits_ctx_units (u : Units) : (s.setUnits u).ctx.units = u := rfl
@[simp] theorem State.setUnits_ctx_seq (u : Units) : (s.setUnits u).ctx.seq = s.ctx.seq := rfl

/-! `State.setSeq` -/

@[simp] theorem State.setSeq_env (q : Seq) : (s.setSeq q).env = s.env := rfl
@[simp] theorem State.setSeq_capsValid (q : Seq) : (s.setSeq q).capsValid = s.capsValid := rfl
@[simp] theorem State.setSeq_caps (q : Seq) : (s.setSeq q).caps = s.caps := rfl
@[simp] theorem State.setSeq_before (q : Seq) : (s.setSeq q).before = s.before := rfl
@[simp] theorem State.setSeq_after (q : Seq) : (s.setSeq q).after = s.after := rfl
@[simp] theorem State.setSeq_mem (q : Seq) : (s.setSeq q).mem = s.mem := rfl
@[simp] theorem State.setSeq_events (q : Seq) : (s.setSeq q).events = s.events := rfl
@[simp] theorem State.setSeq_rdata (q : Seq) : (s.setSeq q).rdata = s.rdata := rfl
@[simp] theorem State.setSeq_free (q : Seq) : (s.setSeq q).free = s.free := rfl
@[simp] theorem State.setSeq_ctx_phase (q : Seq) : (s.setSeq q).ctx.phase = s.ctx.phase := rfl
@[simp] theorem State.setSeq_ctx_busy (q : Seq) : (s.setSeq q).ctx.busy = s.ctx.busy := rfl
@[simp] theorem State.setSeq_ctx_fault (q : Seq) : (s.setSeq q).ctx.fault = s.ctx.fault := rfl
@[simp] theorem State.setSeq_ctx_fcmd (q : Seq) : (s.setSeq q).ctx.fcmd = s.ctx.fcmd := rfl
@[simp] theorem State.setSeq_ctx_opPtr (q : Seq) : (s.setSeq q).ctx.opPtr = s.ctx.opPtr := rfl
@[simp] theorem State.setSeq_ctx_opLen (q : Seq) : (s.setSeq q).ctx.opLen = s.ctx.opLen := rfl
@[simp] theorem State.setSeq_ctx_bsel (q : Seq) : (s.setSeq q).ctx.bsel = s.ctx.bsel := rfl
@[simp] theorem State.setSeq_ctx_bselValid (q : Seq) : (s.setSeq q).ctx.bselValid = s.ctx.bselValid := rfl
@[simp] theorem State.setSeq_ctx_h (q : Seq) : (s.setSeq q).ctx.h = s.ctx.h := rfl
@[simp] theorem State.setSeq_ctx_digest (q : Seq) : (s.setSeq q).ctx.digest = s.ctx.digest := rfl
@[simp] theorem State.setSeq_ctx_units (q : Seq) : (s.setSeq q).ctx.units = s.ctx.units := rfl
@[simp] theorem State.setSeq_ctx_seq (q : Seq) : (s.setSeq q).ctx.seq = q := rfl

/-! `State.setPhase` -/

@[simp] theorem State.setPhase_env (p : Phase) : (s.setPhase p).env = s.env := rfl
@[simp] theorem State.setPhase_capsValid (p : Phase) : (s.setPhase p).capsValid = s.capsValid := rfl
@[simp] theorem State.setPhase_caps (p : Phase) : (s.setPhase p).caps = s.caps := rfl
@[simp] theorem State.setPhase_before (p : Phase) : (s.setPhase p).before = s.before := rfl
@[simp] theorem State.setPhase_after (p : Phase) : (s.setPhase p).after = s.after := rfl
@[simp] theorem State.setPhase_mem (p : Phase) : (s.setPhase p).mem = s.mem := rfl
@[simp] theorem State.setPhase_events (p : Phase) : (s.setPhase p).events = s.events := rfl
@[simp] theorem State.setPhase_rdata (p : Phase) : (s.setPhase p).rdata = s.rdata := rfl
@[simp] theorem State.setPhase_free (p : Phase) : (s.setPhase p).free = s.free := rfl
@[simp] theorem State.setPhase_ctx_phase (p : Phase) : (s.setPhase p).ctx.phase = p := rfl
@[simp] theorem State.setPhase_ctx_busy (p : Phase) : (s.setPhase p).ctx.busy = s.ctx.busy := rfl
@[simp] theorem State.setPhase_ctx_fault (p : Phase) : (s.setPhase p).ctx.fault = s.ctx.fault := rfl
@[simp] theorem State.setPhase_ctx_fcmd (p : Phase) : (s.setPhase p).ctx.fcmd = s.ctx.fcmd := rfl
@[simp] theorem State.setPhase_ctx_opPtr (p : Phase) : (s.setPhase p).ctx.opPtr = s.ctx.opPtr := rfl
@[simp] theorem State.setPhase_ctx_opLen (p : Phase) : (s.setPhase p).ctx.opLen = s.ctx.opLen := rfl
@[simp] theorem State.setPhase_ctx_bsel (p : Phase) : (s.setPhase p).ctx.bsel = s.ctx.bsel := rfl
@[simp] theorem State.setPhase_ctx_bselValid (p : Phase) : (s.setPhase p).ctx.bselValid = s.ctx.bselValid := rfl
@[simp] theorem State.setPhase_ctx_h (p : Phase) : (s.setPhase p).ctx.h = s.ctx.h := rfl
@[simp] theorem State.setPhase_ctx_digest (p : Phase) : (s.setPhase p).ctx.digest = s.ctx.digest := rfl
@[simp] theorem State.setPhase_ctx_units (p : Phase) : (s.setPhase p).ctx.units = s.ctx.units := rfl
@[simp] theorem State.setPhase_ctx_seq (p : Phase) : (s.setPhase p).ctx.seq = s.ctx.seq := rfl

/-! `State.setBusy` -/

@[simp] theorem State.setBusy_env (b : Bool) : (s.setBusy b).env = s.env := rfl
@[simp] theorem State.setBusy_capsValid (b : Bool) : (s.setBusy b).capsValid = s.capsValid := rfl
@[simp] theorem State.setBusy_caps (b : Bool) : (s.setBusy b).caps = s.caps := rfl
@[simp] theorem State.setBusy_before (b : Bool) : (s.setBusy b).before = s.before := rfl
@[simp] theorem State.setBusy_after (b : Bool) : (s.setBusy b).after = s.after := rfl
@[simp] theorem State.setBusy_mem (b : Bool) : (s.setBusy b).mem = s.mem := rfl
@[simp] theorem State.setBusy_events (b : Bool) : (s.setBusy b).events = s.events := rfl
@[simp] theorem State.setBusy_rdata (b : Bool) : (s.setBusy b).rdata = s.rdata := rfl
@[simp] theorem State.setBusy_free (b : Bool) : (s.setBusy b).free = s.free := rfl
@[simp] theorem State.setBusy_ctx_phase (b : Bool) : (s.setBusy b).ctx.phase = s.ctx.phase := rfl
@[simp] theorem State.setBusy_ctx_busy (b : Bool) : (s.setBusy b).ctx.busy = b := rfl
@[simp] theorem State.setBusy_ctx_fault (b : Bool) : (s.setBusy b).ctx.fault = s.ctx.fault := rfl
@[simp] theorem State.setBusy_ctx_fcmd (b : Bool) : (s.setBusy b).ctx.fcmd = s.ctx.fcmd := rfl
@[simp] theorem State.setBusy_ctx_opPtr (b : Bool) : (s.setBusy b).ctx.opPtr = s.ctx.opPtr := rfl
@[simp] theorem State.setBusy_ctx_opLen (b : Bool) : (s.setBusy b).ctx.opLen = s.ctx.opLen := rfl
@[simp] theorem State.setBusy_ctx_bsel (b : Bool) : (s.setBusy b).ctx.bsel = s.ctx.bsel := rfl
@[simp] theorem State.setBusy_ctx_bselValid (b : Bool) : (s.setBusy b).ctx.bselValid = s.ctx.bselValid := rfl
@[simp] theorem State.setBusy_ctx_h (b : Bool) : (s.setBusy b).ctx.h = s.ctx.h := rfl
@[simp] theorem State.setBusy_ctx_digest (b : Bool) : (s.setBusy b).ctx.digest = s.ctx.digest := rfl
@[simp] theorem State.setBusy_ctx_units (b : Bool) : (s.setBusy b).ctx.units = s.ctx.units := rfl
@[simp] theorem State.setBusy_ctx_seq (b : Bool) : (s.setBusy b).ctx.seq = s.ctx.seq := rfl

/-! `State.setDigest` -/

@[simp] theorem State.setDigest_env (d : Vector Byte 20) : (s.setDigest d).env = s.env := rfl
@[simp] theorem State.setDigest_capsValid (d : Vector Byte 20) : (s.setDigest d).capsValid = s.capsValid := rfl
@[simp] theorem State.setDigest_caps (d : Vector Byte 20) : (s.setDigest d).caps = s.caps := rfl
@[simp] theorem State.setDigest_before (d : Vector Byte 20) : (s.setDigest d).before = s.before := rfl
@[simp] theorem State.setDigest_after (d : Vector Byte 20) : (s.setDigest d).after = s.after := rfl
@[simp] theorem State.setDigest_mem (d : Vector Byte 20) : (s.setDigest d).mem = s.mem := rfl
@[simp] theorem State.setDigest_events (d : Vector Byte 20) : (s.setDigest d).events = s.events := rfl
@[simp] theorem State.setDigest_rdata (d : Vector Byte 20) : (s.setDigest d).rdata = s.rdata := rfl
@[simp] theorem State.setDigest_free (d : Vector Byte 20) : (s.setDigest d).free = s.free := rfl
@[simp] theorem State.setDigest_ctx_phase (d : Vector Byte 20) : (s.setDigest d).ctx.phase = s.ctx.phase := rfl
@[simp] theorem State.setDigest_ctx_busy (d : Vector Byte 20) : (s.setDigest d).ctx.busy = s.ctx.busy := rfl
@[simp] theorem State.setDigest_ctx_fault (d : Vector Byte 20) : (s.setDigest d).ctx.fault = s.ctx.fault := rfl
@[simp] theorem State.setDigest_ctx_fcmd (d : Vector Byte 20) : (s.setDigest d).ctx.fcmd = s.ctx.fcmd := rfl
@[simp] theorem State.setDigest_ctx_opPtr (d : Vector Byte 20) : (s.setDigest d).ctx.opPtr = s.ctx.opPtr := rfl
@[simp] theorem State.setDigest_ctx_opLen (d : Vector Byte 20) : (s.setDigest d).ctx.opLen = s.ctx.opLen := rfl
@[simp] theorem State.setDigest_ctx_bsel (d : Vector Byte 20) : (s.setDigest d).ctx.bsel = s.ctx.bsel := rfl
@[simp] theorem State.setDigest_ctx_bselValid (d : Vector Byte 20) : (s.setDigest d).ctx.bselValid = s.ctx.bselValid := rfl
@[simp] theorem State.setDigest_ctx_h (d : Vector Byte 20) : (s.setDigest d).ctx.h = s.ctx.h := rfl
@[simp] theorem State.setDigest_ctx_digest (d : Vector Byte 20) : (s.setDigest d).ctx.digest = d := rfl
@[simp] theorem State.setDigest_ctx_units (d : Vector Byte 20) : (s.setDigest d).ctx.units = s.ctx.units := rfl
@[simp] theorem State.setDigest_ctx_seq (d : Vector Byte 20) : (s.setDigest d).ctx.seq = s.ctx.seq := rfl

/-! `State.setBackend` -/

@[simp] theorem State.setBackend_env (b : Backend) : (s.setBackend b).env = s.env := rfl
@[simp] theorem State.setBackend_capsValid (b : Backend) : (s.setBackend b).capsValid = s.capsValid := rfl
@[simp] theorem State.setBackend_caps (b : Backend) : (s.setBackend b).caps = s.caps := rfl
@[simp] theorem State.setBackend_before (b : Backend) : (s.setBackend b).before = s.before := rfl
@[simp] theorem State.setBackend_after (b : Backend) : (s.setBackend b).after = s.after := rfl
@[simp] theorem State.setBackend_mem (b : Backend) : (s.setBackend b).mem = s.mem := rfl
@[simp] theorem State.setBackend_events (b : Backend) : (s.setBackend b).events = s.events := rfl
@[simp] theorem State.setBackend_rdata (b : Backend) : (s.setBackend b).rdata = s.rdata := rfl
@[simp] theorem State.setBackend_free (b : Backend) : (s.setBackend b).free = s.free := rfl
@[simp] theorem State.setBackend_ctx_phase (b : Backend) : (s.setBackend b).ctx.phase = s.ctx.phase := rfl
@[simp] theorem State.setBackend_ctx_busy (b : Backend) : (s.setBackend b).ctx.busy = s.ctx.busy := rfl
@[simp] theorem State.setBackend_ctx_fault (b : Backend) : (s.setBackend b).ctx.fault = s.ctx.fault := rfl
@[simp] theorem State.setBackend_ctx_fcmd (b : Backend) : (s.setBackend b).ctx.fcmd = s.ctx.fcmd := rfl
@[simp] theorem State.setBackend_ctx_opPtr (b : Backend) : (s.setBackend b).ctx.opPtr = s.ctx.opPtr := rfl
@[simp] theorem State.setBackend_ctx_opLen (b : Backend) : (s.setBackend b).ctx.opLen = s.ctx.opLen := rfl
@[simp] theorem State.setBackend_ctx_bsel (b : Backend) : (s.setBackend b).ctx.bsel = b := rfl
@[simp] theorem State.setBackend_ctx_bselValid (b : Backend) : (s.setBackend b).ctx.bselValid = true := rfl
@[simp] theorem State.setBackend_ctx_h (b : Backend) : (s.setBackend b).ctx.h = s.ctx.h := rfl
@[simp] theorem State.setBackend_ctx_digest (b : Backend) : (s.setBackend b).ctx.digest = s.ctx.digest := rfl
@[simp] theorem State.setBackend_ctx_units (b : Backend) : (s.setBackend b).ctx.units = s.ctx.units := rfl
@[simp] theorem State.setBackend_ctx_seq (b : Backend) : (s.setBackend b).ctx.seq = s.ctx.seq := rfl

/-! `State.retire` -/

@[simp] theorem State.retire_env : (s.retire).env = s.env := rfl
@[simp] theorem State.retire_capsValid : (s.retire).capsValid = s.capsValid := rfl
@[simp] theorem State.retire_caps : (s.retire).caps = s.caps := rfl
@[simp] theorem State.retire_before : (s.retire).before = s.before := rfl
@[simp] theorem State.retire_after : (s.retire).after = s.after := rfl
@[simp] theorem State.retire_mem : (s.retire).mem = s.mem := rfl
@[simp] theorem State.retire_events : (s.retire).events = s.events := rfl
@[simp] theorem State.retire_rdata : (s.retire).rdata = s.rdata := rfl
@[simp] theorem State.retire_free : (s.retire).free = s.free + 1 := rfl
@[simp] theorem State.retire_ctx_phase : (s.retire).ctx.phase = s.ctx.phase := rfl
@[simp] theorem State.retire_ctx_busy : (s.retire).ctx.busy = false := rfl
@[simp] theorem State.retire_ctx_fault : (s.retire).ctx.fault = s.ctx.fault := rfl
@[simp] theorem State.retire_ctx_fcmd : (s.retire).ctx.fcmd = s.ctx.fcmd := rfl
@[simp] theorem State.retire_ctx_opPtr : (s.retire).ctx.opPtr = s.ctx.opPtr := rfl
@[simp] theorem State.retire_ctx_opLen : (s.retire).ctx.opLen = s.ctx.opLen := rfl
@[simp] theorem State.retire_ctx_bsel : (s.retire).ctx.bsel = s.ctx.bsel := rfl
@[simp] theorem State.retire_ctx_bselValid : (s.retire).ctx.bselValid = s.ctx.bselValid := rfl
@[simp] theorem State.retire_ctx_h : (s.retire).ctx.h = s.ctx.h := rfl
@[simp] theorem State.retire_ctx_digest : (s.retire).ctx.digest = s.ctx.digest := rfl

/-! `State.retireSeq` -/

@[simp] theorem State.retireSeq_env : (s.retireSeq).env = s.env := rfl
@[simp] theorem State.retireSeq_capsValid : (s.retireSeq).capsValid = s.capsValid := rfl
@[simp] theorem State.retireSeq_caps : (s.retireSeq).caps = s.caps := rfl
@[simp] theorem State.retireSeq_before : (s.retireSeq).before = s.before := rfl
@[simp] theorem State.retireSeq_after : (s.retireSeq).after = s.after := rfl
@[simp] theorem State.retireSeq_mem : (s.retireSeq).mem = s.mem := rfl
@[simp] theorem State.retireSeq_events : (s.retireSeq).events = s.events := rfl
@[simp] theorem State.retireSeq_rdata : (s.retireSeq).rdata = s.rdata := rfl
@[simp] theorem State.retireSeq_free : (s.retireSeq).free = s.free + 1 := rfl
@[simp] theorem State.retireSeq_ctx_phase : (s.retireSeq).ctx.phase = s.ctx.phase := rfl
@[simp] theorem State.retireSeq_ctx_busy : (s.retireSeq).ctx.busy = false := rfl
@[simp] theorem State.retireSeq_ctx_fault : (s.retireSeq).ctx.fault = s.ctx.fault := rfl
@[simp] theorem State.retireSeq_ctx_fcmd : (s.retireSeq).ctx.fcmd = s.ctx.fcmd := rfl
@[simp] theorem State.retireSeq_ctx_opPtr : (s.retireSeq).ctx.opPtr = s.ctx.opPtr := rfl
@[simp] theorem State.retireSeq_ctx_opLen : (s.retireSeq).ctx.opLen = s.ctx.opLen := rfl
@[simp] theorem State.retireSeq_ctx_bsel : (s.retireSeq).ctx.bsel = s.ctx.bsel := rfl
@[simp] theorem State.retireSeq_ctx_bselValid : (s.retireSeq).ctx.bselValid = s.ctx.bselValid := rfl
@[simp] theorem State.retireSeq_ctx_h : (s.retireSeq).ctx.h = s.ctx.h := rfl
@[simp] theorem State.retireSeq_ctx_digest : (s.retireSeq).ctx.digest = s.ctx.digest := rfl
@[simp] theorem State.retireSeq_ctx_units : (s.retireSeq).ctx.units = s.ctx.units := rfl

/-! `State.takeFault` -/

@[simp] theorem State.takeFault_env (c : Cause) (code : Byte) : (s.takeFault c code).env = s.env := rfl
@[simp] theorem State.takeFault_capsValid (c : Cause) (code : Byte) : (s.takeFault c code).capsValid = s.capsValid := rfl
@[simp] theorem State.takeFault_caps (c : Cause) (code : Byte) : (s.takeFault c code).caps = s.caps := rfl
@[simp] theorem State.takeFault_before (c : Cause) (code : Byte) : (s.takeFault c code).before = s.before := rfl
@[simp] theorem State.takeFault_after (c : Cause) (code : Byte) : (s.takeFault c code).after = s.after := rfl
@[simp] theorem State.takeFault_mem (c : Cause) (code : Byte) : (s.takeFault c code).mem = s.mem := rfl
@[simp] theorem State.takeFault_events (c : Cause) (code : Byte) : (s.takeFault c code).events = s.events := rfl
@[simp] theorem State.takeFault_rdata (c : Cause) (code : Byte) : (s.takeFault c code).rdata = s.rdata := rfl
@[simp] theorem State.takeFault_free (c : Cause) (code : Byte) : (s.takeFault c code).free = s.free + 1 := rfl
@[simp] theorem State.takeFault_ctx_phase (c : Cause) (code : Byte) : (s.takeFault c code).ctx.phase = .fault := rfl
@[simp] theorem State.takeFault_ctx_busy (c : Cause) (code : Byte) : (s.takeFault c code).ctx.busy = false := rfl
@[simp] theorem State.takeFault_ctx_fault (c : Cause) (code : Byte) : (s.takeFault c code).ctx.fault = some c := rfl
@[simp] theorem State.takeFault_ctx_fcmd (c : Cause) (code : Byte) : (s.takeFault c code).ctx.fcmd = code := rfl
@[simp] theorem State.takeFault_ctx_opPtr (c : Cause) (code : Byte) : (s.takeFault c code).ctx.opPtr = s.ctx.opPtr := rfl
@[simp] theorem State.takeFault_ctx_opLen (c : Cause) (code : Byte) : (s.takeFault c code).ctx.opLen = s.ctx.opLen := rfl

/-! `State.startComputation` -/

@[simp] theorem State.startComputation_env : (s.startComputation).env = s.env := rfl
@[simp] theorem State.startComputation_capsValid : (s.startComputation).capsValid = s.capsValid := rfl
@[simp] theorem State.startComputation_caps : (s.startComputation).caps = s.caps := rfl
@[simp] theorem State.startComputation_before : (s.startComputation).before = s.before := rfl
@[simp] theorem State.startComputation_after : (s.startComputation).after = s.after := rfl
@[simp] theorem State.startComputation_mem : (s.startComputation).mem = s.mem := rfl
@[simp] theorem State.startComputation_events : (s.startComputation).events = s.events := rfl
@[simp] theorem State.startComputation_rdata : (s.startComputation).rdata = s.rdata := rfl
@[simp] theorem State.startComputation_free : (s.startComputation).free = s.free + 1 := rfl
@[simp] theorem State.startComputation_ctx_phase : (s.startComputation).ctx.phase = .absorb := rfl
@[simp] theorem State.startComputation_ctx_busy : (s.startComputation).ctx.busy = s.ctx.busy := rfl
@[simp] theorem State.startComputation_ctx_fault : (s.startComputation).ctx.fault = s.ctx.fault := rfl
@[simp] theorem State.startComputation_ctx_fcmd : (s.startComputation).ctx.fcmd = s.ctx.fcmd := rfl
@[simp] theorem State.startComputation_ctx_opPtr : (s.startComputation).ctx.opPtr = s.ctx.opPtr := rfl
@[simp] theorem State.startComputation_ctx_opLen : (s.startComputation).ctx.opLen = s.ctx.opLen := rfl
@[simp] theorem State.startComputation_ctx_bsel : (s.startComputation).ctx.bsel = s.ctx.bsel := rfl
@[simp] theorem State.startComputation_ctx_bselValid : (s.startComputation).ctx.bselValid = s.ctx.bselValid := rfl
@[simp] theorem State.startComputation_ctx_h : (s.startComputation).ctx.h = iv := rfl
@[simp] theorem State.startComputation_ctx_units : (s.startComputation).ctx.units = s.ctx.units := rfl
@[simp] theorem State.startComputation_ctx_seq : (s.startComputation).ctx.seq = s.ctx.seq := rfl

end Sys2Proof.Machine
end

