-- ==== Sys2Proof/Laws/Ops.lean ====
section
/-!
SUPPORT. One lemma per shared operation that says everything it can do: results inside a command, reads of host
memory, addressing a context, accepting a command, a micro-step, a move.
-/

namespace Sys2Proof.Machine

/-! ## Results -/

@[simp] theorem Res.bind_ok {α β : Type} (a : α) (k : α → Res β) : (Res.ok a).bind k = k a := rfl
@[simp] theorem Res.bind_raise {α β : Type} (c : Cause) (k : α → Res β) : (Res.raise c : Res α).bind k = .raise c := rfl
@[simp] theorem Res.bind_stop {α β : Type} (f : Fault) (k : α → Res β) : (Res.stop f : Res α).bind k = .stop f := rfl
@[simp] theorem Res.map_ok {α β : Type} (f : α → β) (a : α) : (Res.ok a).map f = .ok (f a) := rfl
@[simp] theorem Res.map_raise {α β : Type} (f : α → β) (c : Cause) : (Res.raise c : Res α).map f = .raise c := rfl
@[simp] theorem Res.map_stop {α β : Type} (f : α → β) (g : Fault) : (Res.stop g : Res α).map f = .stop g := rfl

/-- A bind has a value only through a value. -/
theorem Res.bind_eq_ok {α β : Type} {r : Res α} {k : α → Res β} {b : β} :
    r.bind k = .ok b ↔ ∃ a, r = .ok a ∧ k a = .ok b := by
  cases r <;> simp [Res.bind]

/-- A map has a value only through a value. -/
theorem Res.map_eq_ok {α β : Type} {r : Res α} {f : α → β} {b : β} : r.map f = .ok b ↔ ∃ a, r = .ok a ∧ f a = b := by
  cases r <;> simp [Res.map, Res.bind]

/-- What `finish` can do: the value, or the fault taken. -/
theorem State.finish_next {s t : State} {code : Byte} {r : Res State} (h : s.finish code r = .next t) :
    r = .ok t ∨ ∃ c, r = .raise c ∧ t = s.takeFault c code := by
  cases r with
  | ok a => simp only [State.finish, Host.Outcome.next.injEq] at h; exact .inl (h ▸ rfl)
  | raise c => simp only [State.finish, Host.Outcome.next.injEq] at h; exact .inr ⟨c, rfl, h.symm⟩
  | stop f => simp [State.finish] at h

/-- What taking a fault leaves (R290, R291). -/
theorem State.takeFault_faultedAs (s : State) (c : Cause) (code : Byte) : s.FaultedAs c code (s.takeFault c code) := by
  simp [State.FaultedAs]

/-! ## Reads of host memory -/

/-- One byte that exists and is granted reads as what memory holds. -/
theorem State.readByte_of_ok {s : State} {a : Nat} (hlt : a < 2 ^ s.env.addrW) (hok : s.env.memOk a = true) :
    s.readByte a = .ok (s.mem.read a) := by
  simp [State.readByte, Nat.not_le.mpr hlt, hok]

/-- The list of bytes from `a` on, one byte longer. -/
theorem State.bytes_succ (s : State) (a n : Nat) : s.bytes a (n + 1) = s.mem.read a :: s.bytes (a + 1) n := by
  simp [State.bytes, List.range_succ_eq_map, Function.comp_def, Nat.add_assoc, Nat.add_comm 1]

@[simp] theorem State.length_bytes (s : State) (a n : Nat) : (s.bytes a n).length = n := by simp [State.bytes]

/-- A readable range reads as the bytes of memory (R52). -/
theorem State.memRead_of_readable {s : State} {a n : Nat} (h : s.Readable a n) : s.memRead a n = .ok (s.bytes a n) := by
  induction n generalizing a with
  | zero => rfl
  | succ n ih =>
    obtain ⟨hfit, hok⟩ := h
    have h0 := State.readByte_of_ok (s := s) (a := a) (by omega) (by simpa using hok 0 (by omega))
    have h1 : s.Readable (a + 1) n :=
      ⟨by omega, fun i hi => by have := hok (i + 1) (by omega); rwa [show a + 1 + i = a + (i + 1) by omega]⟩
    simp [State.memRead, h0, ih h1, State.bytes_succ]

/-- A read that has a value gives the bytes of memory. -/
theorem State.memRead_eq_ok {s : State} {a n : Nat} {bs : List Byte} (h : s.memRead a n = .ok bs) :
    bs = s.bytes a n := by
  induction n generalizing a bs with
  | zero => simpa [State.memRead, State.bytes] using h.symm
  | succ n ih =>
    obtain ⟨b, hb, h⟩ := Res.bind_eq_ok.mp h
    obtain ⟨bs', hbs, rfl⟩ := Res.map_eq_ok.mp h
    have hb' : b = s.mem.read a := by
      unfold State.readByte at hb
      split_ifs at hb
      simpa using hb.symm
    rw [State.bytes_succ, ← ih hbs, hb']

/-! ## Contexts -/

@[simp] theorem State.length_file (s : State) : s.file.length = s.numCtx := by
  simp [State.file, State.numCtx]; omega

/-- Addressing a context does not change the register file. -/
@[simp] theorem State.file_focus (s : State) (k : Nat) : (s.focus k).file = s.file := by
  unfold State.focus
  split
  · rename_i c hc
    obtain ⟨hk, rfl⟩ := List.getElem?_eq_some_iff.mp hc
    show s.file.take k ++ s.file[k] :: s.file.drop (k + 1) = s.file
    rw [List.cons_getElem_drop_succ, List.take_append_drop]
  · rfl

/-- The context in focus after addressing context `k` is the file's entry `k`. -/
theorem State.focus_ctx {s : State} {k : Nat} (hk : k < s.numCtx) : s.file[k]? = some (s.focus k).ctx := by
  have h : k < s.file.length := by simpa using hk
  unfold State.focus
  rw [List.getElem?_eq_getElem h]

/-- Addressing a context changes nothing but the focus. -/
theorem State.focus_other (s : State) (k : Nat) :
    (s.focus k).env = s.env ∧ (s.focus k).capsValid = s.capsValid ∧ (s.focus k).caps = s.caps ∧
      (s.focus k).mem = s.mem ∧ (s.focus k).events = s.events ∧ (s.focus k).rdata = s.rdata ∧
      (s.focus k).free = s.free := by
  unfold State.focus
  split <;> simp

/-- The context in focus is addressed already. -/
theorem State.focus_current (s : State) : s.focus s.current = s := by
  have h : s.file[s.current]? = some s.ctx := by simp [State.file, State.current]
  unfold State.focus
  rw [h]
  simp [State.file, State.current]

/-! ## Commands -/

/-- What a command can do: nothing while BUSY or in phase FAULT, else its body. -/
theorem State.onCommand_ready {s : State} {body : State → Out} (h : s.Ready) : s.onCommand body = body s := by
  simp [State.onCommand, h.1, h.2]

theorem State.onCommand_faulted {s : State} {body : State → Out} (h : s.ctx.phase = .fault) :
    s.onCommand body = .next s := by
  unfold State.onCommand; split_ifs <;> rfl

theorem State.onCommand_busy {s : State} {body : State → Out} (h : s.ctx.busy = true) : s.onCommand body = .next s := by
  simp [State.onCommand, h]

/-- No acceptance check fails exactly when the order and the range are right (R288). -/
theorem acceptCheck_eq_none {addrW p size : Nat} {b : Bool} :
    acceptCheck addrW b p size = none ↔ b = true ∧ (p = nullAddr → size = 0) ∧ p + size ≤ 2 ^ addrW := by
  unfold acceptCheck
  cases b <;> split_ifs <;> simp_all

/-- Everything a command that has a next state does. -/
theorem State.onCommand_next {s t : State} {body : State → Out} (h : s.onCommand body = .next t) :
    ((s.ctx.busy = true ∨ s.ctx.phase = .fault) ∧ t = s) ∨ (s.Ready ∧ body s = .next t) := by
  unfold State.onCommand at h
  split_ifs at h with hb hp
  · exact .inl ⟨.inl hb, by cases h; rfl⟩
  · exact .inl ⟨.inr hp, by cases h; rfl⟩
  · exact .inr ⟨⟨by simpa using hb, hp⟩, h⟩

/-- Filling the cache: nothing, or the provider's answer (R120). -/
theorem State.fillCaps_cases (s : State) :
    (s.capsValid = true ∧ s.fillCaps = s) ∨
      (s.capsValid = false ∧ s.fillCaps = { s with caps := s.env.capIn, capsValid := true }) := by
  unfold State.fillCaps
  split
  · exact .inl ⟨‹_›, rfl⟩
  · rename_i h
    exact .inr ⟨by simpa using h, rfl⟩

/-- A selection has a value exactly for a unit that is there (R128). -/
theorem State.chooseBackend_eq_ok {s t : State} {b : Backend} :
    s.chooseBackend b = .ok t ↔ s.env.present b = true ∧ s.setBackend b = t := by
  unfold State.chooseBackend
  split <;> simp_all

/-! ## Micro-operations -/

/-- Everything a micro-operation of unit A that has a next state does. -/
theorem State.onUnitA_next {s t : State} {f : State → Out} (h : s.onUnitA f = .next t) :
    s.env.hasA = true ∧ f s = .next t := by
  unfold State.onUnitA at h
  split_ifs at h with ha
  exact ⟨ha, h⟩

/-- Everything a micro-operation of unit B that has a next state does. -/
theorem State.onUnitB_next {s t : State} {f : State → Out} (h : s.onUnitB f = .next t) :
    s.env.hasB = true ∧ f s = .next t := by
  unfold State.onUnitB at h
  split_ifs at h with hb
  exact ⟨hb, h⟩

/-- A read of host memory raises nothing but AccessFault (R281). -/
theorem State.memRead_raise {s : State} {a n : Nat} {c : Cause} (h : s.memRead a n = .raise c) : c = .accessFault := by
  have hbyte (a : Nat) (h : s.readByte a = .raise c) : c = .accessFault := by
    unfold State.readByte at h
    split_ifs at h
    simpa using h.symm
  induction n generalizing a with
  | zero => simp [State.memRead] at h
  | succ n ih =>
    unfold State.memRead at h
    cases hb : s.readByte a with
    | raise d => rw [hb] at h; exact hbyte a (by rw [hb]; simpa using h)
    | stop f => simp [hb] at h
    | ok b =>
      cases hr : s.memRead (a + 1) n with
      | raise d => exact ih (a := a + 1) (by rw [hr]; simpa [hb, hr] using h)
      | stop f => simp [hb, hr] at h
      | ok bs => simp [hb, hr] at h

/-! ## Micro-steps and moves -/

/-- Everything a micro-step that has a next state does. -/
theorem microStep_next {s t : State} (h : microStep s = .next t) :
    ∃ i u, decodeMicro s.ctx.seq.uir = some i ∧ exec i s = .next u ∧ t = if u.ctx.busy then advance i u else u := by
  unfold microStep at h
  split at h
  · simp at h
  · rename_i i hi
    split at h <;> simp_all

/-- Everything a move that addresses a context does. -/
theorem onContext_next {k : Nat} {s t : State} {f : State → Out} (h : onContext k s f = .next t) :
    k < s.numCtx ∧ f (s.focus k) = .next t := by
  unfold onContext at h
  split_ifs at h with hk
  exact ⟨hk, h⟩

/-- Everything a move that waits for `BUSY = 0` does (R331). -/
theorem whenFree_next {k : Nat} {rest : List Event} {s t : State} {f : State → Out}
    (h : whenFree k rest s f = .next t) :
    k < s.numCtx ∧
      (((s.focus k).ctx.busy = true ∧ microStep (s.focus k) = .next t) ∨
        ((s.focus k).ctx.busy = false ∧ f { s.focus k with events := rest } = .next t)) := by
  obtain ⟨hk, h⟩ := onContext_next h
  refine ⟨hk, ?_⟩
  split at h
  · exact .inl ⟨‹_›, h⟩
  · rename_i hb
    exact .inr ⟨by simpa using hb, h⟩

end Sys2Proof.Machine
end

