-- ==== Sys2Proof/Laws/PerInstr.lean ====
section
/-!
SUPPORT. Lemmas per instruction. `Format`: bit 7 of an operation's byte tells a command (0) from a micro-operation
(1) (30_encoding R70).
-/

namespace Sys2Proof.Laws

/-- Bit 7 of the byte is 0 exactly for the commands (R70). -/
def Format.Statement (i : Instr) : Prop := (encode i).getLsbD 7 = !i.isCommand

theorem Format.getcaps : Format.Statement .getcaps := rfl
theorem Format.select : Format.Statement .select := rfl
theorem Format.selectG : Format.Statement .selectG := rfl
theorem Format.selectA : Format.Statement .selectA := rfl
theorem Format.selectB : Format.Statement .selectB := rfl
theorem Format.init : Format.Statement .init := rfl
theorem Format.transform : Format.Statement .transform := rfl
theorem Format.finalize : Format.Statement .finalize := rfl
theorem Format.encode : Format.Statement .encode := rfl
theorem Format.encodeLE : Format.Statement .encodeLE := rfl
theorem Format.encodeBE : Format.Statement .encodeBE := rfl
theorem Format.hash : Format.Statement .hash := rfl
theorem Format.ldbe32 : Format.Statement .ldbe32 := rfl
theorem Format.stbe64 : Format.Statement .stbe64 := rfl
theorem Format.bswap32 : Format.Statement .bswap32 := rfl
theorem Format.wrLoad : Format.Statement .wrLoad := rfl
theorem Format.schedLoad : Format.Statement .schedLoad := rfl
theorem Format.schedExp : Format.Statement .schedExp := rfl
theorem Format.rndCh : Format.Statement .rndCh := rfl
theorem Format.rndPar1 : Format.Statement .rndPar1 := rfl
theorem Format.rndMaj : Format.Statement .rndMaj := rfl
theorem Format.rndPar2 : Format.Statement .rndPar2 := rfl
theorem Format.feedfwd : Format.Statement .feedfwd := rfl
theorem Format.vaLdbe : Format.Statement .vaLdbe := rfl
theorem Format.vaSu0 : Format.Statement .vaSu0 := rfl
theorem Format.vaSu1 : Format.Statement .vaSu1 := rfl
theorem Format.vaH : Format.Statement .vaH := rfl
theorem Format.vaR4c : Format.Statement .vaR4c := rfl
theorem Format.vaR4p : Format.Statement .vaR4p := rfl
theorem Format.vaR4m : Format.Statement .vaR4m := rfl
theorem Format.vaAcc : Format.Statement .vaAcc := rfl
theorem Format.vaAddk (k : BitVec 2) : Format.Statement (.vaAddk k) := by
  revert k; unfold Format.Statement; decide
theorem Format.vaInit : Format.Statement .vaInit := rfl
theorem Format.vbLdbe : Format.Statement .vbLdbe := rfl
theorem Format.vbMsg1 : Format.Statement .vbMsg1 := rfl
theorem Format.vbXor : Format.Statement .vbXor := rfl
theorem Format.vbMsg2 : Format.Statement .vbMsg2 := rfl
theorem Format.vbRnds4 (k : BitVec 2) : Format.Statement (.vbRnds4 k) := by
  revert k; unfold Format.Statement; decide
theorem Format.vbNexte : Format.Statement .vbNexte := rfl
theorem Format.vbEadd : Format.Statement .vbEadd := rfl
theorem Format.vbAcc : Format.Statement .vbAcc := rfl
theorem Format.vbInit : Format.Statement .vbInit := rfl
theorem Format.padCopy : Format.Statement .padCopy := rfl
theorem Format.padMark : Format.Statement .padMark := rfl
theorem Format.padLen : Format.Statement .padLen := rfl
theorem Format.padZero0 : Format.Statement .padZero0 := rfl
theorem Format.padZero1 : Format.Statement .padZero1 := rfl
theorem Format.padZero2 : Format.Statement .padZero2 := rfl
theorem Format.encSt : Format.Statement .encSt := rfl
theorem Format.encSwst : Format.Statement .encSwst := rfl

end Sys2Proof.Laws
end

