-- ==== Sys2Proof/Laws/Step.lean ====
section
/-!
SUPPORT. What a step can do, said once: every statement about `step` follows from these cases.
-/

namespace Sys2Proof.Machine

/-- The machine with context `k` in focus and the moves `es` to come. -/
def State.turn (s : State) (k : Nat) (es : List Event) : State := { s.focus k with events := es }

/-- What a turn of context `k` can be: a micro-operation of a busy context; a command, an operand write or nothing on a
context that is not busy; a read. -/
def TurnDoes (u t : State) : Prop :=
  (u.ctx.busy = true ∧ microStep u = .next t) ∨
  (u.ctx.busy = false ∧
    ((∃ c, writeCmd exec c u = .next t) ∨ (∃ c, writeCmd issue c u = .next t) ∨
      (∃ v, t = u.writePtr v) ∨ (∃ v, t = u.writeLen v) ∨ t = u)) ∨
  ∃ r, t = u.readReg r

/-- The moves as they are: a turn is the focus alone. -/
theorem State.turn_events (s : State) (k : Nat) : s.turn k s.events = s.focus k := by
  have h := (s.focus_other k).2.2.2.2.1
  rw [State.turn, ← h]

/-- A write on a context that is not busy is a command or an operand write. -/
theorem writeReg_next {reg : Nat} {v : BitVec 64} {u t : State} (hb : u.ctx.busy = false)
    (h : writeReg reg v u = .next t) : TurnDoes u t := by
  unfold writeReg at h
  split at h
  · exact .inr (.inl ⟨hb, .inl ⟨_, h⟩⟩)
  · exact .inr (.inl ⟨hb, .inr (.inr (.inl ⟨v, by cases h; rfl⟩))⟩)
  · exact .inr (.inl ⟨hb, .inr (.inr (.inr (.inl ⟨v, by cases h; rfl⟩)))⟩)
  all_goals cases h

/-- A read is a read of a register. -/
theorem readMove_next {reg : Nat} {u t : State} (h : readMove reg u = .next t) : ∃ r, t = u.readReg r := by
  unfold readMove at h
  split at h <;> cases h <;> exact ⟨_, rfl⟩

/-- A move that waits for `BUSY = 0`, as a turn. -/
theorem whenFree_turn {k : Nat} {rest : List Event} {s t : State} {f : State → Out}
    (h : whenFree k rest s f = .next t)
    (hf : ∀ u, u.ctx.busy = false → f u = .next t → TurnDoes u t) :
    k < s.numCtx ∧ (TurnDoes (s.turn k s.events) t ∨ TurnDoes (s.turn k rest) t) := by
  obtain ⟨hk, ⟨hb, h⟩ | ⟨hb, h⟩⟩ := whenFree_next h
  · exact ⟨hk, .inl (by rw [State.turn_events]; exact .inl ⟨hb, h⟩)⟩
  · exact ⟨hk, .inr (hf (s.turn k rest) hb h)⟩

/-- A turn is no reset. -/
theorem State.no_reset_of_mover {s : State} {k : Nat} (h : s.mover = some k) :
    ∀ v rest, s.events ≠ .reset v :: rest := fun v rest he => by
  simp [State.mover, he, Event.target] at h

/-- Everything a step that has a next state does: the machine waits; a reset; a store by another agent; or a turn of the
context `State.mover` names, the head of the moves taken away or not. -/
theorem step_next {s t : State} (h : step s = .next t) :
    (s.events = [] ∧ s.mover = none ∧ t = s) ∨
    (∃ v rest, s.events = .reset v :: rest ∧ t = ({ s with events := rest } : State).resetEvent v) ∨
    (∃ a b rest, s.events = .store a b :: rest ∧ a < 2 ^ s.env.addrW ∧ s.bufferInUse a = false ∧
      t = { s with events := rest, mem := s.mem.write a b }) ∨
    ∃ k es, s.mover = some k ∧ k < s.numCtx ∧ (es = s.events ∨ ∃ e, s.events = e :: es) ∧
      TurnDoes (s.turn k es) t := by
  have pick {k : Nat} {e : Event} {rest : List Event} (he : s.events = e :: rest) (ht : e.target = some k)
      (h : k < s.numCtx ∧ (TurnDoes (s.turn k s.events) t ∨ TurnDoes (s.turn k rest) t)) :
      ∃ k es, s.mover = some k ∧ k < s.numCtx ∧ (es = s.events ∨ ∃ e, s.events = e :: es) ∧
        TurnDoes (s.turn k es) t := by
    have hm : s.mover = some k := by simp only [State.mover, he, ht]
    obtain ⟨hk, h | h⟩ := h
    · exact ⟨k, _, hm, hk, .inl rfl, h⟩
    · exact ⟨k, rest, hm, hk, .inr ⟨e, he⟩, h⟩
  unfold step at h
  split at h
  · rename_i he
    unfold runOn at h
    split at h
    · rename_i k hk
      obtain ⟨hlt, hb, _⟩ := List.findIdx?_eq_some_iff_getElem.mp hk
      have hlt' : k < s.numCtx := by simpa using hlt
      have hc := State.focus_ctx hlt'
      rw [List.getElem?_eq_getElem hlt] at hc
      refine .inr (.inr (.inr ⟨k, s.events, by simp only [State.mover, he, hk], hlt', .inl rfl, .inl ⟨?_, ?_⟩⟩))
      · rw [State.turn_events, ← Option.some.inj hc]; exact hb
      · rw [State.turn_events]; exact h
    · exact .inl ⟨he, by simp only [State.mover, he, ‹s.firstBusy = none›], by cases h; rfl⟩
  · rename_i e rest he
    unfold applyEvent at h
    split at h
    · split_ifs at h
      exact .inr (.inr (.inr (pick he rfl (whenFree_turn h fun u hb hu => writeReg_next hb hu))))
    · exact .inr (.inr (.inr (pick he rfl
        (whenFree_turn h fun u hb hu => .inr (.inl ⟨hb, .inr (.inl ⟨_, hu⟩)⟩)))))
    · obtain ⟨hk, h⟩ := onContext_next h
      exact .inr (.inr (.inr (pick he rfl ⟨hk, .inr (.inr (.inr (readMove_next h)))⟩)))
    · exact .inr (.inr (.inr (pick he rfl
        (whenFree_turn h fun u hb hu => .inr (.inr ⟨_, by cases hu; rfl⟩)))))
    · obtain ⟨hk, h⟩ := onContext_next h
      refine .inr (.inr (.inr (pick he rfl ⟨hk, .inr ?_⟩)))
      simp only at h
      split_ifs at h with hb
      · exact .inl ⟨hb, h⟩
      · exact .inr (.inl ⟨Bool.eq_false_iff.mpr hb, .inr (.inr (.inr (.inr (by cases h; rfl))))⟩)
    · rename_i a b
      unfold storeMove at h
      split_ifs at h with h1 h2
      exact .inr (.inr (.inl ⟨a, b, rest, he, Nat.not_le.mp h1, Bool.eq_false_iff.mpr h2, by cases h; rfl⟩))
    · exact .inr (.inl ⟨_, rest, he, by cases h; rfl⟩)

/-- A turn leaves the register file of the others alone: only entry `k` can differ. -/
theorem State.turn_file (s : State) (k : Nat) (es : List Event) : (s.turn k es).file = s.file := s.file_focus k

end Sys2Proof.Machine
end

