-- ==== Sys2Proof/Tests/Slice0.lean ====
section
/-!
SUPPORT. Tests. Expected values come from spec/: the encodings of 30_encoding R72 and R74, and the vectors of
95_test_vectors, whose section each test names. Then, for every statement with hypotheses, a state and operands that
meet them.
-/

namespace Sys2Proof.Tests

open Sys2Proof Sys2Proof.Machine

/-! ## Small states -/

/-- One field of a next state; `none` when there is no next state. -/
def field {α : Type} (o : Out) (f : State → α) : Option α :=
  match o with
  | .next t => some (f t)
  | .fault _ | .refused _ => none

/-- Reset, with host memory `m`, and the context in focus changed by `f`. -/
def start (m : Memory) (f : Context → Context) : State := { State.reset with mem := m, ctx := f Context.reset }

/-- An idle context with its operands written. -/
def idle (p n : BitVec 64) (c : Context) : Context := { c with opPtr := p, opLen := n }

/-- A context with a computation open on unit `b`, its operands written. -/
def open_ (b : Backend) (p n : BitVec 64) (c : Context) : Context :=
  { c with phase := .absorb, bsel := b, bselValid := true, h := iv, opPtr := p, opLen := n }

/-- A busy context at position `q` with registers `u`. -/
def busyAt (q : Seq) (h : Quint) (u : Units) (c : Context) : Context :=
  { c with phase := .absorb, busy := true, bselValid := true, h := h, units := u, seq := q }

/-- The state of a test of one micro-operation. -/
def micro (q : Seq) (h : Quint) (u : Units) : State := start [] (busyAt q h u)

/-- A position with counters `T`, `GRP`, `FB`, `K5`. -/
def pos (t : BitVec 7) (g : BitVec 5) (fb : BitVec 2) (k : BitVec 3) : Seq := ⟨0x30, 0x90, 0, t, g, fb, k⟩

/-- Bytes `61 62 63` at 0x1000 (95 P1). -/
def abc : Memory := [(0x1000, 0x61), (0x1001, 0x62), (0x1002, 0x63)]

/-- The padded block of "abc" (95 section 2). -/
def abcBlock : Vector Byte 64 := putBytes (Vector.replicate 64 0) 0 [0x61, 0x62, 0x63, 0x80] |>.set 63 0x18

/-- H after "abc" (95 section 2). -/
def abcH : Quint := ⟨0xA9993E36, 0x4706816A, 0xBA3E2571, 0x7850C26C, 0x9CD0D89D⟩

/-- The digest of "abc" (V2). -/
def abcDigest : List Byte :=
  [0xa9, 0x99, 0x3e, 0x36, 0x47, 0x06, 0x81, 0x6a, 0xba, 0x3e, 0x25, 0x71, 0x78, 0x50, 0xc2, 0x6c, 0x9c, 0xd0, 0xd8,
   0x9d]

/-- Zero registers with SCRATCH as given. -/
def withScratch (sc : Vector Byte 64) : Units := { Units.zero with scratch := sc }

/-- Zero registers with unit A's as given. -/
def withA (a : UnitA) : Units := { Units.zero with va := a }

/-- Zero registers with unit B's as given. -/
def withB (b : UnitB) : Units := { Units.zero with vb := b }

/-- The window loaded with `Wt[0..15]` (95 section 5.1). -/
def wt : Window where
  m0 := ⟨0x269E0D37, 0xA6A3A450, 0x892F902B, 0x81E74EF5⟩
  m1 := ⟨0x099950D8, 0x6F03675A, 0x11E20B8F, 0x6CAD4A26⟩
  m2 := ⟨0xF29D0DA9, 0x658CDA14, 0xF9EBDACC, 0xDBC496CB⟩
  m3 := ⟨0x4A23D596, 0x2E44158B, 0xA38FD547, 0x5F557203⟩

/-- `W[16..19]` of `Wt` (95 section 5.1). -/
def wt16 : Vec4 := ⟨0xE6D10A7C, 0xC28FCBED, 0x4C10D078, 0xA7E36A31⟩

/-- A context stopped by `c` while running `code`. -/
def record (o : Out) : Option (Phase × Bool × Option Cause × Byte) :=
  field o fun t => (t.ctx.phase, t.ctx.busy, t.ctx.fault, t.ctx.fcmd)

/-! ## WellFormed: an ill-formed term for each check -/

theorem test_wf_issuer :
    Instr.wf .host .hash = true ∧ Instr.wf .host .wrLoad = false ∧ Instr.wf .sequencer .wrLoad = true ∧
    Instr.wf .sequencer .hash = false ∧ Instr.wf .sequencer .ldbe32 = false := by decide

theorem test_wf_event :
    Event.wf 1 16 (.write 0 2 5) = true ∧ Event.wf 1 16 (.write 1 2 5) = false ∧
    Event.wf 1 16 (.write 0 1 5) = false ∧ Event.wf 1 16 (.read 0 51) = true ∧ Event.wf 1 16 (.read 0 52) = false ∧
    Event.wf 1 16 (.read 0 0) = false ∧ Event.wf 1 16 (.read 1 1) = false ∧ Event.wf 1 16 (.issue 1 0x60) = false ∧
    Event.wf 1 16 (.wait 1) = false ∧ Event.wf 1 16 (.tick 1) = false ∧ Event.wf 1 16 (.store 65535 1) = true ∧
    Event.wf 1 16 (.store 65536 1) = false := by decide

/-! ## Decoding: every operation's code from the tables of R72 and R74, written in binary -/

theorem test_decode_commands :
    decode 0b00000001 = some .getcaps ∧ decode 0b00010000 = some .select ∧ decode 0b00010001 = some .selectG ∧
    decode 0b00010010 = some .selectA ∧ decode 0b00010011 = some .selectB ∧ decode 0b00100000 = some .init ∧
    decode 0b00110000 = some .transform ∧ decode 0b01000000 = some .finalize ∧ decode 0b01010000 = some .encode ∧
    decode 0b01010001 = some .encodeLE ∧ decode 0b01010010 = some .encodeBE ∧ decode 0b01100000 = some .hash := by
  decide

theorem test_decode_primitives_and_unit_g :
    decode 0b10000000 = some .ldbe32 ∧ decode 0b10000001 = some .stbe64 ∧ decode 0b10000010 = some .bswap32 ∧
    decode 0b10010000 = some .wrLoad ∧ decode 0b10010001 = some .schedLoad ∧ decode 0b10010010 = some .schedExp ∧
    decode 0b10010100 = some .rndCh ∧ decode 0b10010101 = some .rndPar1 ∧ decode 0b10010110 = some .rndMaj ∧
    decode 0b10010111 = some .rndPar2 ∧ decode 0b10011000 = some .feedfwd := by decide

theorem test_decode_unit_a :
    decode 0b10100000 = some .vaLdbe ∧ decode 0b10100001 = some .vaSu0 ∧ decode 0b10100010 = some .vaSu1 ∧
    decode 0b10100011 = some .vaH ∧ decode 0b10100100 = some .vaR4c ∧ decode 0b10100101 = some .vaR4p ∧
    decode 0b10100110 = some .vaR4m ∧ decode 0b10100111 = some .vaAcc ∧ decode 0b10101000 = some (.vaAddk 0) ∧
    decode 0b10101001 = some (.vaAddk 1) ∧ decode 0b10101010 = some (.vaAddk 2) ∧
    decode 0b10101011 = some (.vaAddk 3) ∧ decode 0b10101100 = some .vaInit := by decide

theorem test_decode_unit_b :
    decode 0b10110000 = some .vbLdbe ∧ decode 0b10110001 = some .vbMsg1 ∧ decode 0b10110010 = some .vbXor ∧
    decode 0b10110011 = some .vbMsg2 ∧ decode 0b10110100 = some (.vbRnds4 0) ∧
    decode 0b10110101 = some (.vbRnds4 1) ∧ decode 0b10110110 = some (.vbRnds4 2) ∧
    decode 0b10110111 = some (.vbRnds4 3) ∧ decode 0b10111000 = some .vbNexte ∧ decode 0b10111001 = some .vbEadd ∧
    decode 0b10111010 = some .vbAcc ∧ decode 0b10111011 = some .vbInit := by decide

theorem test_decode_padding_and_encoder :
    decode 0b11000000 = some .padCopy ∧ decode 0b11000001 = some .padMark ∧ decode 0b11000011 = some .padLen ∧
    decode 0b11000100 = some .padZero0 ∧ decode 0b11000101 = some .padZero1 ∧ decode 0b11000110 = some .padZero2 ∧
    decode 0b11010000 = some .encSt ∧ decode 0b11010001 = some .encSwst := by decide

/-- 95 section 6.7: bytes that name nothing. -/
theorem test_decode_refuses :
    ([0x00, 0x02, 0x03, 0x14, 0x21, 0x31, 0x41, 0x53, 0x61, 0x70, 0x7F, 0x93, 0xC2, 0xC7, 0xD2, 0xFF] : List Byte).all
      (fun c => (decode c).isNone) = true := by decide

/-- Micro-operation codes written to CMD are no commands (R75). -/
theorem test_micro_codes_are_no_commands :
    decodeCommand 0x90 = none ∧ decodeCommand 0xC0 = none ∧ decodeCommand 0xAC = none := by decide

/-! ## Commands -/

/-- R120: after reset with `CAP_IN = 3`; and a second GETCAPS keeps what is there. -/
theorem test_getcaps :
    field (exec .getcaps { State.reset with env := { Env.default with capIn := 3 } }) (fun t => (t.caps, t.capsValid))
      = some (3, true) ∧
    field (exec .getcaps { State.reset with env := { Env.default with capIn := 3 }, caps := 1, capsValid := true })
      (fun t => (t.caps, t.capsValid)) = some (1, true) := by decide

/-- A filled cache. -/
def cached (c : BitVec 64) (a b : Bool) : State :=
  { State.reset with env := { Env.default with hasA := a, hasB := b }, caps := c, capsValid := true }

/-- 95 section 6.4. -/
theorem test_select :
    field (exec .select (cached 0 false false)) (fun t => (t.ctx.bsel, t.ctx.bselValid)) = some (.generic, true) ∧
    field (exec .select (cached 2 false true)) (fun t => t.ctx.bsel) = some .accelB ∧
    field (exec .select (cached 3 true false)) (fun t => t.ctx.bsel) = some .accelA ∧
    field (exec .select (cached 0xFFFFFFFFFFFFFFFC false false)) (fun t => t.ctx.bsel) = some .generic ∧
    record (exec .select (cached 3 false true)) = some (.fault, false, some .unsupportedBackend, 0x10) ∧
    record (exec .select State.reset) = some (.fault, false, some .sequenceError, 0x10) := by decide

/-- R125 to R127, 95 section 6.4. -/
theorem test_forced_selection :
    field (exec .selectG State.reset) (fun t => (t.ctx.bsel, t.ctx.bselValid, t.capsValid))
      = some (.generic, true, false) ∧
    field (exec .selectA State.reset) (fun t => t.ctx.bsel) = some .accelA ∧
    field (exec .selectB State.reset) (fun t => t.ctx.bsel) = some .accelB ∧
    record (exec .selectA (cached 0 false true)) = some (.fault, false, some .unsupportedBackend, 0x12) ∧
    record (exec .selectB (cached 0 true false)) = some (.fault, false, some .unsupportedBackend, 0x13) := by decide

/-- R140, 95 section 6.8. -/
theorem test_init :
    field (exec .init (start [] fun c => { c with bselValid := true })) (fun t => (t.ctx.h, t.ctx.phase)) =
      some (⟨0x67452301, 0xEFCDAB89, 0x98BADCFE, 0x10325476, 0xC3D2E1F0⟩, .absorb) ∧
    record (exec .init State.reset) = some (.fault, false, some .sequenceError, 0x20) := by decide

/-- 95 section 6.3: a block of 64 zero bytes from the IV. -/
theorem test_transform_generic :
    field (exec .transform (start [] (open_ .generic 0x4001 1))) (fun t => t.ctx.h) =
      some ⟨0x92B404E5, 0x56588CED, 0x6C1ACD4E, 0xBF053F68, 0x09F73A93⟩ := by decide +kernel

/-- R141: a count of 0 with a null pointer; 95 section 6.8: `0x40 + 64 * 1024 > 2^16`, and the null pointer first. -/
theorem test_transform_limits :
    field (exec .transform (start [] (open_ .generic 0 0))) (fun t => t.ctx.h) = some iv ∧
    record (exec .transform { start [] (open_ .generic 0x40 0x400) with env := { Env.default with addrW := 16 } }) =
      some (.fault, false, some .addressRange, 0x30) ∧
    record (exec .transform { start [] (open_ .generic 0 0x400) with env := { Env.default with addrW := 16 } }) =
      some (.fault, false, some .nullBuffer, 0x30) := by decide

/-- R220: "abc". -/
theorem test_finalize_abc :
    field (exec .finalize (start abc (open_ .accelA 0x1000 3))) (fun t => (t.ctx.h, t.ctx.phase)) =
      some (abcH, .final) := by decide +kernel

/-- 95 P3's last step with another state: a multiple of 64 needs no pointer; length 0 gives the empty message. -/
theorem test_finalize_empty :
    field (exec .finalize (start [] (open_ .accelB 0 0))) (fun t => t.ctx.h) =
      some ⟨0xDA39A3EE, 0x5E6B4B0D, 0x3255BFEF, 0x95601890, 0xAFD80709⟩ := by decide +kernel

/-- A context in phase FINAL. -/
def finished (h : Quint) (c : Context) : Context := { c with phase := .final, bselValid := true, h := h }

/-- 95 section 6.6, both byte orders of the host. -/
theorem test_encode :
    field (exec .encode (start [] (finished abcH))) (fun t => (t.ctx.digest.toList, t.ctx.phase)) =
      some (abcDigest, .done) ∧
    field (exec .encode { start [] (finished abcH) with env := { Env.default with hostBE := true } })
      (fun t => t.ctx.digest.toList) = some abcDigest ∧
    record (exec .encode State.reset) = some (.fault, false, some .sequenceError, 0x50) := by decide +kernel

/-- 95 section 6.6, last row. -/
theorem test_encode_forced :
    field (exec .encodeLE (start [] (finished ⟨0, 1, 0x80000000, 0xFFFFFFFF, 0x01020304⟩)))
      (fun t => t.ctx.digest.toList) =
      some [0, 0, 0, 0, 0, 0, 0, 1, 0x80, 0, 0, 0, 0xff, 0xff, 0xff, 0xff, 1, 2, 3, 4] ∧
    field (exec .encodeBE (start [] (finished ⟨0, 1, 0x80000000, 0xFFFFFFFF, 0x01020304⟩)))
      (fun t => t.ctx.digest.toList) =
      some [0, 0, 0, 0, 0, 0, 0, 1, 0x80, 0, 0, 0, 0xff, 0xff, 0xff, 0xff, 1, 2, 3, 4] := by decide +kernel

/-- V2, P1's end state. -/
theorem test_hash_abc :
    field (exec .hash (start abc (idle 0x1000 3)))
      (fun t => (t.ctx.h, digestBytes t.ctx.h, t.ctx.phase, t.ctx.bsel, t.capsValid)) =
      some (abcH, abcDigest, .done, .generic, true) := by decide +kernel

/-- 95 P4b and P4c: the fault comes before or after GETCAPS. -/
theorem test_hash_faults :
    field (exec .hash (start abc (idle 0 3))) (fun t => (t.ctx.fault, t.ctx.fcmd, t.capsValid)) =
      some (some .nullBuffer, 0x60, false) ∧
    field (exec .hash { start abc (idle 0x1000 3) with env := { Env.default with hasA := false, capIn := 1 } })
      (fun t => (t.ctx.fault, t.ctx.fcmd, t.caps)) = some (some .unsupportedBackend, 0x60, 1) := by decide

/-! ## Steps -/

/-- R32, P4a: TRANSFORM right after reset; `STATUS and 0x38FF = 0x3047`. -/
theorem test_status_after_fault :
    field (exec .transform State.reset) (fun t => t.status &&& 0x38FF) = some 0x3047 := by
  have key : ∀ (v : Bool) (b c : Backend),
      ((0 : BitVec 18) ++ bit1 true ++ bit1 true ++ bit1 false ++ (if v then b else c).tag ++ bit1 v ++ bit1 false
        ++ (4 : BitVec 3) ++ bit1 false ++ (7 : BitVec 3)) &&& 0x38FF = (0x3047 : BitVec 32) := by
    intro v b c; cases v <;> cases b <;> cases c <;> decide
  exact congrArg some (key _ _ _)

/-- R32, P2's end: `STATUS = 0x3103`. -/
theorem test_status_after_encode :
    field (exec .encodeLE (start [] (finished abcH))) (fun t => t.status) = some 0x3103 := by decide +kernel

/-- R33, R75: a write to register 0 runs a command on the context it names, a micro-operation's code is illegal. -/
theorem test_write_cmd :
    field (step { State.reset with after := [Context.reset], events := [.write 1 0 0x11] })
      (fun t => t.file.map fun c => c.bselValid) = some [false, true] ∧
    record (step { State.reset with events := [.write 0 0 0x90] }) =
      some (.fault, false, some .illegalCommand, 0x90) := by decide

/-- R57, R39: what a store does and where it stops. -/
theorem test_store :
    field (step { start abc (idle 0 0) with events := [.store 0x1001 0] }) (fun t => t.mem) =
      some [(0x1000, 0x61), (0x1002, 0x63)] ∧
    step { State.reset with env := { Env.default with addrW := 16 }, events := [.store 65536 1] } =
      .fault .outsideAddressSpace := ⟨by decide, rfl⟩

/-- R29, R227: FINALIZE issued begins its padding sequence; R331: the next write is held. -/
theorem test_issue_and_hold :
    field (step { start abc (open_ .generic 0x1000 3) with events := [.issue 0 0x40] })
      (fun t => (t.ctx.busy, t.ctx.seq.uir, t.ctx.seq.fb)) = some (true, 0xC0, 1) ∧
    field (step { micro (pos 0 0 1 0) iv Units.zero with events := [.write 0 2 7] })
      (fun t => (t.events.length, t.ctx.opPtr, t.ctx.seq.uir)) = some (1, 0, 0x91) := by decide

/-- 30_encoding R70, for withFetchWord: the next step runs the operation placed. -/
theorem test_with_fetch_word :
    field (step (State.reset.withFetchWord 8 0x11)) (fun t => t.ctx.bselValid) = some true ∧
    field (step (State.reset.withFetchWord 8 0xC1)) (fun t => t.ctx.units.scratch[0]) = some 0x80 := by decide

/-! ## Primitives (95 section 6.1) -/

theorem test_ldbe32 :
    field (exec .ldbe32 (micro (pos 0 0 1 0) iv (withScratch abcBlock))) (fun t => t.ctx.units.prim.x) =
      some 0x61626380 := by decide

theorem test_stbe64 :
    field (exec .stbe64 (micro (pos 0 0 1 0) iv { Units.zero with prim := ⟨0, 0, 0x0123456789ABCDEF⟩ }))
      (fun t => t.ctx.units.scratch.toList.drop 56) = some [0x01, 0x23, 0x45, 0x67, 0x89, 0xab, 0xcd, 0xef] := by
  decide

theorem test_bswap32 :
    field (exec .bswap32 (micro (pos 0 0 1 0) iv { Units.zero with prim := ⟨0, 0x01020304, 0⟩ }))
      (fun t => t.ctx.units.prim.x) = some 0x04030201 := by decide

/-! ## Unit G -/

theorem test_wrload :
    field (exec .wrLoad (micro (pos 0 0 0 0) iv Units.zero)) (fun t => t.ctx.units.wr) =
      some ⟨0x67452301, 0xEFCDAB89, 0x98BADCFE, 0x10325476, 0xC3D2E1F0⟩ := by decide

/-- R144: words 0 and 15 of the "abc" block. -/
theorem test_schedload :
    field (exec .schedLoad (micro (pos 0 0 1 0) iv (withScratch abcBlock))) (fun t => t.ctx.units.w[0]) =
      some 0x61626380 ∧
    field (exec .schedLoad (micro (pos 15 0 1 0) iv (withScratch abcBlock))) (fun t => t.ctx.units.w[15]) =
      some 0x00000018 := by decide

/-- R145: `W[16]` and `W[19]` of the "abc" block. -/
theorem test_schedexp :
    field (exec .schedExp (micro (pos 16 0 0 0) iv { Units.zero with w := (Vector.replicate 80 0).set 0 0x61626380 }))
      (fun t => t.ctx.units.w[16]) = some 0xC2C4C700 ∧
    field (exec .schedExp (micro (pos 19 0 0 0) iv { Units.zero with w := (Vector.replicate 80 0).set 16 0xC2C4C700 }))
      (fun t => t.ctx.units.w[19]) = some 0x85898E01 := by decide

/-- Working registers and one schedule word. -/
def round (t : Nat) (w : Word) (q : Quint) : State :=
  micro (pos (BitVec.ofNat 7 t) 0 0 0) iv
    { Units.zero with wr := q, w := (Vector.replicate 80 (0 : Word)).setIfInBounds t w }

/-- All ones. -/
def ones : Quint := ⟨0xFFFFFFFF, 0xFFFFFFFF, 0xFFFFFFFF, 0xFFFFFFFF, 0xFFFFFFFF⟩

theorem test_rndch :
    field (exec .rndCh (round 0 0x61626380 iv)) (fun t => t.ctx.units.wr) =
      some ⟨0x0116FC33, 0x67452301, 0x7BF36AE2, 0x98BADCFE, 0x10325476⟩ ∧
    field (exec .rndCh (round 19 0xFFFFFFFF ones)) (fun t => t.ctx.units.wr) =
      some ⟨0x5A827995, 0xFFFFFFFF, 0xFFFFFFFF, 0xFFFFFFFF, 0xFFFFFFFF⟩ := by decide

theorem test_rndpar1 :
    field (exec .rndPar1 (round 20 0 ⟨0xFD9E1D7D, 0xDC64901D, 0x20AA99CA, 0xD3A49608, 0xC82F758B⟩))
      (fun t => t.ctx.units.wr) = some ⟨0x1A37B0CA, 0xFD9E1D7D, 0x77192407, 0x20AA99CA, 0xD3A49608⟩ := by decide

theorem test_rndmaj :
    field (exec .rndMaj (round 40 0xD2E138C4 ⟨0x32DE1CBA, 0x4C986405, 0xF718E5CF, 0x03D447F6, 0xF72EEC32⟩))
      (fun t => t.ctx.units.wr) = some ⟨0xFC87DEDF, 0x32DE1CBA, 0x53261901, 0xF718E5CF, 0x03D447F6⟩ := by decide

theorem test_rndpar2 :
    field (exec .rndPar2 (round 60 0x7BA06619 ⟨0x3F52DE5A, 0x09D785FD, 0x3498BFD4, 0xF211824F, 0xD79915AB⟩))
      (fun t => t.ctx.units.wr) = some ⟨0xD756C147, 0x3F52DE5A, 0x4275E17F, 0x3498BFD4, 0xF211824F⟩ := by decide

theorem test_feedfwd :
    field (exec .feedfwd (micro (pos 0 0 0 0) iv
      { Units.zero with wr := ⟨0x42541B35, 0x5738D5E1, 0x21834873, 0x681E6DF6, 0xD8FDF6AD⟩ })) (fun t => t.ctx.h) =
      some abcH := by decide

/-! ## Unit A (R183 to R192, 95 section 5) -/

theorem test_vainit :
    field (exec .vaInit (micro (pos 0 0 0 0) iv Units.zero)) (fun t => (t.ctx.units.va.abcd, t.ctx.units.va.e0)) =
      some (⟨0x67452301, 0xEFCDAB89, 0x98BADCFE, 0x10325476⟩, 0xC3D2E1F0) := by decide

theorem test_valdbe :
    field (exec .vaLdbe (micro (pos 0 0 1 0) iv (withScratch abcBlock))) (fun t => t.ctx.units.va.m.m0) =
      some ⟨0x61626380, 0, 0, 0⟩ ∧
    field (exec .vaLdbe (micro (pos 0 3 1 0) iv (withScratch abcBlock))) (fun t => t.ctx.units.va.m.m3) =
      some ⟨0, 0, 0, 0x00000018⟩ := by decide

theorem test_vasu0 :
    field (exec .vaSu0 (micro (pos 0 4 0 0) iv (withA { Units.zero.va with m := wt }))) (fun t => t.ctx.units.va.t) =
      some ⟨0x5D2C90B5, 0x42C830B1, 0x795D1A3F, 0x3520BF64⟩ := by decide

theorem test_vasu1 :
    field (exec .vaSu1 (micro (pos 0 4 0 0) iv (withA { Units.zero.va with
      m := wt, t := ⟨0x5D2C90B5, 0x42C830B1, 0x795D1A3F, 0x3520BF64⟩ }))) (fun t => t.ctx.units.va.m.m0) =
      some wt16 := by decide

theorem test_vaaddk :
    field (exec (.vaAddk 0) (micro (pos 0 0 0 0) iv (withA { Units.zero.va with
      m := ⟨⟨0x61626380, 0, 0, 0⟩, ⟨0, 0, 0, 0⟩, ⟨0, 0, 0, 0⟩, ⟨0, 0, 0, 0⟩⟩ }))) (fun t => t.ctx.units.va.wk) =
      some ⟨0xBBE4DD19, 0x5A827999, 0x5A827999, 0x5A827999⟩ ∧
    field (exec (.vaAddk 2) (micro (pos 0 10 0 0) iv (withA { Units.zero.va with
      m := ⟨⟨0, 0, 0, 0⟩, ⟨0, 0, 0, 0⟩, ⟨0xD2E138C4, 0x00000F00, 0x3AFB5079, 0x898E04E5⟩, ⟨0, 0, 0, 0⟩⟩ })))
      (fun t => t.ctx.units.va.wk) = some ⟨0x61FCF5A0, 0x8F1BCBDC, 0xCA170D55, 0x18A9C1C1⟩ := by decide

theorem test_vah :
    field (exec .vaH (micro (pos 0 19 0 0) iv (withA { Units.zero.va with
      abcd := ⟨0x63F7DAB7, 0x5EE76897, 0xC45E4FDB, 0x3B6D0B79⟩ }))) (fun t => t.ctx.units.va.e1) =
      some 0xD8FDF6AD := by decide

/-- The registers unit A's four rounds read. -/
def lanesA (abcd : Vec4) (e0 e1 : Word) (wk : Vec4) : State :=
  micro (pos 0 0 0 0) iv (withA { Units.zero.va with abcd := abcd, e0 := e0, e1 := e1, wk := wk })

theorem test_var4c :
    field (exec .vaR4c (lanesA iv.abcd 0xC3D2E1F0 0x59D148C0 ⟨0xBBE4DD19, 0x5A827999, 0x5A827999, 0x5A827999⟩))
      (fun t => (t.ctx.units.va.abcd, t.ctx.units.va.e0)) =
      some (⟨0xCDD8E11B, 0xA1390F08, 0x626414DB, 0xC045BF0C⟩, 0x59D148C0) := by decide

theorem test_var4p :
    field (exec .vaR4p (lanesA ⟨0x63F7DAB7, 0x5EE76897, 0xC45E4FDB, 0x3B6D0B79⟩ 0xCE616779 0xD8FDF6AD
      ⟨0xB148CD3F, 0xCB58CBD6, 0x21F8B125, 0x4C90CA4F⟩)) (fun t => (t.ctx.units.va.abcd, t.ctx.units.va.e0)) =
      some (⟨0x42541B35, 0x5738D5E1, 0x21834873, 0x681E6DF6⟩, 0xD8FDF6AD) := by decide

theorem test_var4m :
    field (exec .vaR4m (lanesA ⟨0x32DE1CBA, 0x4C986405, 0xF718E5CF, 0x03D447F6⟩ 0xF72EEC32 0x8CB7872E
      ⟨0x61FCF5A0, 0x8F1BCBDC, 0xCA170D55, 0x18A9C1C1⟩)) (fun t => (t.ctx.units.va.abcd, t.ctx.units.va.e0)) =
      some (⟨0xEE1B1AAF, 0x7F193DC5, 0x25C28357, 0xFF21F7B7⟩, 0x8CB7872E) := by decide

theorem test_vaacc :
    field (exec .vaAcc (lanesA ⟨0x42541B35, 0x5738D5E1, 0x21834873, 0x681E6DF6⟩ 0xD8FDF6AD 0 ⟨0, 0, 0, 0⟩))
      (fun t => t.ctx.h) = some abcH := by decide

/-! ## Unit B (R195 to R203, 95 section 5) -/

theorem test_vbinit :
    field (exec .vbInit (micro (pos 0 0 0 0) iv Units.zero)) (fun t => t.ctx.units.vb.abcd) =
      some ⟨0x67452301, 0xEFCDAB89, 0x98BADCFE, 0x10325476⟩ := by decide

theorem test_vbldbe :
    field (exec .vbLdbe (micro (pos 0 0 1 0) iv (withScratch abcBlock))) (fun t => t.ctx.units.vb.m.m0) =
      some ⟨0x61626380, 0, 0, 0⟩ ∧
    field (exec .vbLdbe (micro (pos 0 3 1 0) iv (withScratch abcBlock))) (fun t => t.ctx.units.vb.m.m3) =
      some ⟨0, 0, 0, 0x00000018⟩ := by decide

theorem test_vbmsg1 :
    field (exec .vbMsg1 (micro (pos 0 4 0 0) iv (withB { Units.zero.vb with m := wt }))) (fun t => t.ctx.units.vb.t) =
      some ⟨0xAFB19D1C, 0x2744EAA5, 0x80B6C0F3, 0xEEE429AF⟩ := by decide

theorem test_vbxor :
    field (exec .vbXor (micro (pos 0 4 0 0) iv (withB { Units.zero.vb with
      m := wt, t := ⟨0xAFB19D1C, 0x2744EAA5, 0x80B6C0F3, 0xEEE429AF⟩ }))) (fun t => t.ctx.units.vb.t) =
      some ⟨0x5D2C90B5, 0x42C830B1, 0x795D1A3F, 0x3520BF64⟩ := by decide

theorem test_vbmsg2 :
    field (exec .vbMsg2 (micro (pos 0 4 0 0) iv (withB { Units.zero.vb with
      m := wt, t := ⟨0x5D2C90B5, 0x42C830B1, 0x795D1A3F, 0x3520BF64⟩ }))) (fun t => t.ctx.units.vb.m.m0) =
      some wt16 := by decide

theorem test_vbeadd :
    field (exec .vbEadd (micro (pos 0 0 0 0) iv (withB { Units.zero.vb with
      m := ⟨⟨0x61626380, 0, 0, 0⟩, ⟨0, 0, 0, 0⟩, ⟨0, 0, 0, 0⟩, ⟨0, 0, 0, 0⟩⟩ }))) (fun t => t.ctx.units.vb.ew) =
      some ⟨0x25354570, 0, 0, 0⟩ := by decide

theorem test_vbnexte :
    field (exec .vbNexte (micro (pos 0 10 0 0) iv (withB { Units.zero.vb with
      prev := ⟨0xDCBBB0CB, 0, 0, 0⟩
      m := ⟨⟨0, 0, 0, 0⟩, ⟨0, 0, 0, 0⟩, ⟨0xD2E138C4, 0x00000F00, 0x3AFB5079, 0x898E04E5⟩, ⟨0, 0, 0, 0⟩⟩ })))
      (fun t => t.ctx.units.vb.ew) = some ⟨0xCA1024F6, 0x00000F00, 0x3AFB5079, 0x898E04E5⟩ := by decide

/-- The registers unit B's four rounds read. -/
def lanesB (abcd ew : Vec4) : State := micro (pos 0 0 0 0) iv (withB { Units.zero.vb with abcd := abcd, ew := ew })

theorem test_vbrnds4_choose :
    field (exec (.vbRnds4 0) (lanesB iv.abcd ⟨0x25354570, 0, 0, 0⟩))
      (fun t => (t.ctx.units.vb.abcd, t.ctx.units.vb.prev)) =
      some (⟨0xCDD8E11B, 0xA1390F08, 0x626414DB, 0xC045BF0C⟩, iv.abcd) := by decide

theorem test_vbrnds4_parity2 :
    field (exec (.vbRnds4 3) (lanesB ⟨0x3F52DE5A, 0x09D785FD, 0x3498BFD4, 0xF211824F⟩
      ⟨0x53397BC4, 0x6380AEA2, 0x0AE55269, 0x627B49A1⟩)) (fun t => t.ctx.units.vb.abcd) =
      some ⟨0x6B61C9E1, 0xB66C020B, 0x9523272C, 0xF5D5B051⟩ := by decide

theorem test_vbacc :
    field (exec .vbAcc (micro (pos 0 0 0 0) iv (withB { Units.zero.vb with
      abcd := ⟨0x42541B35, 0x5738D5E1, 0x21834873, 0x681E6DF6⟩, prev := ⟨0x63F7DAB7, 0, 0, 0⟩ })))
      (fun t => t.ctx.h) = some abcH := by decide

/-! ## Padding and encoder (R222 to R225, R243, R244) -/

/-- A running FINALIZE with total length `n` and SCRATCH all `FF`. -/
def padding (n : BitVec 64) : State :=
  start abc fun c => { busyAt ⟨0x40, 0xC0, 0, 0, 0, 1, 0⟩ iv (withScratch (Vector.replicate 64 0xFF)) c with
    opPtr := 0x1000, opLen := n }

theorem test_padcopy :
    field (exec .padCopy (padding 3)) (fun t => t.ctx.units.scratch.toList.take 4) =
      some [0x61, 0x62, 0x63, 0xFF] := by decide

theorem test_padmark :
    field (exec .padMark (padding 3)) (fun t => t.ctx.units.scratch.toList.take 5) =
      some [0xFF, 0xFF, 0xFF, 0x80, 0xFF] ∧
    field (exec .padMark (padding 63)) (fun t => t.ctx.units.scratch.toList.drop 62) = some [0xFF, 0x80] := by decide

theorem test_padlen :
    field (exec .padLen (padding 56)) (fun t => t.ctx.units.scratch.toList.drop 55) =
      some [0xFF, 0, 0, 0, 0, 0, 0, 0x01, 0xC0] ∧
    field (exec .padLen (padding 0x2000000000000005)) (fun t => t.ctx.units.scratch.toList.drop 56) =
      some [0, 0, 0, 0, 0, 0, 0, 0x28] := by decide

theorem test_padzero0 :
    field (exec .padZero0 (padding 3)) (fun t => t.ctx.units.scratch.toList) =
      some (List.replicate 4 0xFF ++ List.replicate 52 0 ++ List.replicate 8 0xFF) ∧
    field (exec .padZero0 (padding 55)) (fun t => t.ctx.units.scratch.toList) = some (List.replicate 64 0xFF) := by
  decide +kernel

theorem test_padzero1 :
    field (exec .padZero1 (padding 56)) (fun t => t.ctx.units.scratch.toList) =
      some (List.replicate 57 0xFF ++ List.replicate 7 0) ∧
    field (exec .padZero1 (padding 63)) (fun t => t.ctx.units.scratch.toList) = some (List.replicate 64 0xFF) := by
  decide +kernel

theorem test_padzero2 :
    field (exec .padZero2 (padding 63)) (fun t => t.ctx.units.scratch.toList) =
      some (List.replicate 56 0 ++ List.replicate 8 0xFF) := by decide +kernel

theorem test_encst :
    field (exec .encSt (micro (pos 0 0 0 0) abcH Units.zero)) (fun t => t.ctx.digest.toList.take 5) =
      some [0xa9, 0x99, 0x3e, 0x36, 0] := by decide

theorem test_encswst :
    field (exec .encSwst (micro (pos 0 0 0 4) abcH Units.zero)) (fun t => t.ctx.digest.toList.drop 15) =
      some [0, 0x9c, 0xd0, 0xd8, 0x9d] := by decide

/-! ## Witnesses: for each statement with hypotheses, states and operands that meet them, at boundary values where a
range is given -/

/-- The test defaults with a small address space. -/
def small : Env := { Env.default with addrW := 12 }

/-- TRANSFORM of the last block of the address space, on unit `b`. -/
def lastBlock (b : Backend) : State := { start [] (open_ b 4032 1) with env := small }

/-- The same, the platform refusing the last byte of all. -/
def lastByteRefused : State := { lastBlock .generic with env := { small with refused := [(4095, 1)] } }

/-- FINALIZE or HASH of the last 63 bytes of the address space. -/
def last63 (f : BitVec 64 → BitVec 64 → Context → Context) (r : List (Nat × Nat)) : State :=
  { start [] (f 4033 63) with env := { small with refused := r } }

/-- A busy context of TRANSFORM at its first micro-operation. -/
def running : State := micro (pos 0 0 0 0) iv Units.zero

theorem witness_StepRunsCommand :
    (∃ s : State, 1 < s.numCtx ∧ (s.focus 1).Ready ∧ s.events = [.write 1 0 0x60] ∧
      decodeCommand ((0x60 : BitVec 64).setWidth 8) = some .hash) ∧
    ∃ s : State, 0 < s.numCtx ∧ (s.focus 0).Ready ∧ s.events = [.issue 0 0x60] ∧ decodeCommand 0x60 = some .hash :=
  ⟨⟨{ State.reset with after := [Context.reset], events := [.write 1 0 0x60] }, by decide, ⟨rfl, by decide⟩, rfl, rfl⟩,
    ⟨{ State.reset with events := [.issue 0 0x60] }, by decide, ⟨rfl, by decide⟩, rfl, rfl⟩⟩

theorem witness_StepRunsMicroOperation :
    0 < running.numCtx ∧ (running.focus 0).ctx.busy = true ∧
      decodeMicro (running.focus 0).ctx.seq.uir = some .wrLoad ∧
      ({ running with events := [.tick 0] } : State).events = [.tick 0] ∧ running.events = [] ∧
      running.firstBusy = some 0 := by decide

theorem witness_WriteHeldWhileBusy :
    let s : State := { running with events := [.write 0 2 7] }
    0 < s.numCtx ∧ (s.focus 0).ctx.busy = true ∧ HostReg.writable 2 = true ∧ ∃ t, step s = .next t :=
  ⟨by decide, rfl, rfl, ⟨_, rfl⟩⟩

theorem witness_OperandWrites :
    let s : State := { start [] (fun c => { c with phase := .fault, fault := some .nullBuffer }) with
      events := [.write 0 2 (BitVec.allOnes 64)] }
    0 < s.numCtx ∧ (s.focus 0).ctx.busy = false := by decide

theorem witness_RegisterReads :
    HostReg.readable 0 = false ∧ HostReg.readable 6 = false ∧ HostReg.readable 31 = false ∧
      HostReg.readable 52 = false ∧ HostReg.readable 1 = true ∧ HostReg.readable 5 = true ∧
      HostReg.readable 32 = true ∧ HostReg.readable 51 = true ∧ 32 + 19 = 51 ∧
      ∃ s : State, s.events = [.read 0 51] ∧ 0 < s.numCtx ∧ s.capsValid = true ∧ (s.focus 0).ctx.phase = .done ∧
        (s.focus 0).ctx.busy = false :=
  ⟨rfl, rfl, rfl, rfl, rfl, rfl, rfl, rfl, rfl,
    { start [] (fun c => { c with phase := .done }) with events := [.read 0 51], capsValid := true }, rfl, by decide, rfl,
    rfl, rfl⟩

theorem witness_RegisterReads_fcmd :
    let s : State := { start [] (fun c => { c with phase := .fault, fault := some .nullBuffer }) with
      events := [.read 0 5] }
    0 < s.numCtx ∧ (s.focus 0).ctx.fault ≠ none := by decide

/-- The last byte of the space, the first beyond it, and the last byte of a running command's range. -/
theorem witness_StoreMoves :
    let s : State := { lastBlock .generic with events := [.store 4095 1] }
    let b : State := { s with ctx := { s.ctx with busy := true, seq := pos 0 0 0 0 } }
    4095 < 2 ^ s.env.addrW ∧ s.bufferInUse 4095 = false ∧ s.mem.wf = true ∧ 2 ^ s.env.addrW ≤ 4096 ∧
      b.bufferInUse 4095 = true ∧ b.bufferInUse 4032 = true ∧ b.bufferInUse 4031 = false := by decide

theorem witness_ResetEvent : ({ running with events := [.reset 3] } : State).events = [.reset 3] := rfl

/-- Both forms of the write. -/
theorem witness_IllegalCommand :
    let s : State := { State.reset with events := [.write 0 0 0x80] }
    let i : State := { State.reset with events := [.issue 0 0x80] }
    ((0x80 : BitVec 64).setWidth 8 = (0x80 : Byte) ∧ s.events = .write 0 0 0x80 :: []) ∧
      i.events = .issue 0 0x80 :: [] ∧ 0 < s.numCtx ∧ (s.focus 0).Ready ∧ 0 < i.numCtx ∧ (i.focus 0).Ready ∧
      (0x80 : Byte) ∉ ([0x01, 0x10, 0x11, 0x12, 0x13, 0x20, 0x30, 0x40, 0x50, 0x51, 0x52, 0x60] : List Byte) :=
  ⟨⟨rfl, rfl⟩, rfl, by decide, ⟨rfl, by decide⟩, by decide, ⟨rfl, by decide⟩, by decide⟩

/-- Both forms of the write. -/
theorem witness_FaultIgnoresCommands :
    let s : State := { start [] (fun c => { c with phase := .fault, fault := some .nullBuffer }) with
      events := [.write 0 0 0x00] }
    let i : State := { s with events := [.issue 0 0x60] }
    0 < i.numCtx ∧ (i.focus 0).ctx.phase = .fault ∧ (i.focus 0).ctx.busy = false ∧ 0 < s.numCtx ∧ (s.focus 0).ctx.phase = .fault ∧ (s.focus 0).ctx.busy = false ∧ s.ctx.phase = .fault ∧
      Instr.isCommand .hash = true := by decide

/-- One byte too long, by each command; and nothing wrong at the very end of the space. -/
theorem witness_OperandFaults :
    (lastBlock .generic).Ready ∧ Accepted .transform (lastBlock .generic) ∧
      ¬ 2 ^ small.addrW < (lastBlock .generic).ptr + 64 * (lastBlock .generic).len ∧
    (start [] (open_ .generic 0 1)).Ready ∧ Accepted .transform (start [] (open_ .generic 0 1)) ∧
    (let s : State := { start [] (open_ .generic 4033 1) with env := small };
      s.Ready ∧ Accepted .transform s ∧ Accepted .finalize s ∧ 2 ^ s.env.addrW < s.ptr + 64 * s.len) ∧
    (let s : State := { start [] (open_ .generic 4034 63) with env := small };
      s.Ready ∧ Accepted .finalize s ∧ 2 ^ s.env.addrW < s.ptr + s.len % 64) ∧
    (let s : State := { start [] (idle 4034 63) with env := small };
      s.Ready ∧ Accepted .hash s ∧ 2 ^ s.env.addrW < s.ptr + s.len) :=
  ⟨⟨rfl, by decide⟩, rfl, by decide, ⟨rfl, by decide⟩, rfl, ⟨⟨rfl, by decide⟩, rfl, rfl, by decide⟩,
    ⟨⟨rfl, by decide⟩, rfl, by decide⟩, ⟨rfl, by decide⟩, .inl rfl, by decide⟩

theorem witness_UnsupportedBackend :
    (cached 1 false true).Ready ∧ Accepted .select (cached 1 false true) ∧ Accepted .selectA (cached 1 false true) ∧
      Accepted .selectB (cached 2 true false) ∧ Accepted .hash (cached 1 false true) ∧
      (cached 1 false true).RangeOk 0 0 ∧ (1 : BitVec 64).getLsbD 0 = true ∧
      (2 : BitVec 64).getLsbD 0 = false ∧ (2 : BitVec 64).getLsbD 1 = true :=
  ⟨⟨rfl, by decide⟩, ⟨.inl rfl, rfl⟩, .inl rfl, .inl rfl, .inl rfl, ⟨fun _ => rfl, by decide⟩, rfl, rfl, rfl⟩

theorem witness_AccessFaults :
    (let s := lastByteRefused;
      s.Ready ∧ Accepted .transform s ∧ s.RangeOk s.ptr (64 * s.len) ∧ s.env.present s.ctx.bsel = true ∧
        s.Refused s.ptr (64 * s.len)) ∧
    (let s := last63 (open_ .accelA) [(4095, 1)];
      s.Ready ∧ Accepted .finalize s ∧ s.RangeOk s.ptr (s.len % 64) ∧ s.env.present s.ctx.bsel = true ∧
        s.Refused s.ptr (s.len % 64)) ∧
    (let s := last63 idle [(4033, 1)];
      s.Ready ∧ Accepted .hash s ∧ s.RangeOk s.ptr s.len ∧ s.env.present (selectTag s.env s.env.capIn) = true ∧
        s.Refused s.ptr s.len) :=
  ⟨⟨⟨rfl, by decide⟩, rfl, ⟨by decide, by decide⟩, rfl, by decide, 63, by decide, by decide⟩,
    ⟨⟨rfl, by decide⟩, rfl, ⟨by decide, by decide⟩, rfl, by decide, 62, by decide, by decide⟩,
    ⟨rfl, by decide⟩, .inl rfl, ⟨by decide, by decide⟩, rfl, by decide, 0, by decide, by decide⟩

theorem witness_PhaseTable :
    Instr.isCommand .getcaps = true ∧ State.reset.Ready ∧ Accepted .getcaps State.reset ∧
      ¬ Accepted .init State.reset ∧ ∃ t, exec .getcaps State.reset = .next t :=
  ⟨rfl, ⟨rfl, by decide⟩, by simp [Accepted, State.reset, Context.reset],
    by simp [Accepted, State.reset, Context.reset], ⟨_, rfl⟩⟩

theorem witness_Getcaps : State.reset.Ready := ⟨rfl, by decide⟩

theorem witness_Select :
    ¬(State.reset.Between ∧ State.reset.capsValid = true) ∧ State.reset.Ready ∧
    (cached 3 true false).Ready ∧ (cached 3 true false).Between ∧ (cached 3 true false).capsValid = true ∧
      (cached 3 true false).env.present .accelA = true ∧ (cached 2 true false).env.present .accelB = false :=
  ⟨fun h => Bool.noConfusion h.2, ⟨rfl, by decide⟩, ⟨rfl, by decide⟩, .inl rfl, rfl, rfl, rfl⟩

theorem witness_ForcedSelection :
    (lastBlock .generic).Ready ∧ ¬ (lastBlock .generic).Between ∧ State.reset.Between ∧
      State.reset.env.hasA = true ∧ State.reset.env.hasB = true ∧ (cached 0 false true).env.hasA = false ∧
      (cached 0 true false).env.hasB = false :=
  ⟨⟨rfl, by decide⟩, by simp [State.Between, lastBlock, start, open_], .inl rfl, rfl, rfl, rfl, rfl⟩

theorem witness_Init :
    let s := start [] fun c => { c with bselValid := true }
    s.Ready ∧ s.Between ∧ s.ctx.bselValid = true ∧ ¬(State.reset.Between ∧ State.reset.ctx.bselValid = true) :=
  ⟨⟨rfl, by decide⟩, .inl rfl, rfl, fun h => Bool.noConfusion h.2⟩

theorem witness_Transform :
    (let s := lastBlock .accelB;
      s.Ready ∧ s.ctx.phase = .absorb ∧ s.RangeOk s.ptr (64 * s.len) ∧ s.env.present s.ctx.bsel = true ∧
        s.Readable s.ptr (64 * s.len)) ∧
    (let s := start [] (open_ .generic 0 0);
      s.Ready ∧ s.ctx.phase = .absorb ∧ s.RangeOk s.ptr (64 * s.len) ∧ s.len = 0) :=
  ⟨⟨⟨rfl, by decide⟩, rfl, ⟨by decide, by decide⟩, rfl, by decide, by decide⟩,
    ⟨rfl, by decide⟩, rfl, ⟨by decide, by decide⟩, rfl⟩

theorem witness_Finalize :
    let s := last63 (open_ .accelA) []
    s.Ready ∧ s.ctx.phase = .absorb ∧ s.RangeOk s.ptr (s.len % 64) ∧ s.env.present s.ctx.bsel = true ∧
      s.Readable s.ptr (s.len % 64) :=
  ⟨⟨rfl, by decide⟩, rfl, ⟨by decide, by decide⟩, rfl, by decide, by decide⟩

theorem witness_Encode :
    (start [] (finished abcH)).Ready ∧ (start [] (finished abcH)).ctx.phase = .final ∧ State.reset.Ready ∧
      State.reset.ctx.phase ≠ .final := ⟨⟨rfl, by decide⟩, rfl, ⟨rfl, by decide⟩, by decide⟩

theorem witness_HashIsSha1 :
    let s := last63 idle []
    s.Ready ∧ s.Between ∧ s.RangeOk s.ptr s.len ∧ s.Readable s.ptr s.len ∧
      s.env.present (selectTag s.env s.env.capIn) = true ∧ 8 * s.len < 2 ^ 64 :=
  ⟨⟨rfl, by decide⟩, .inl rfl, ⟨by decide, by decide⟩, ⟨by decide, by decide⟩, rfl, by decide⟩

/-- The same three bytes at two addresses, under different units. -/
theorem witness_HashDependsOnBufferOnly :
    ∃ s1 s2 t1 t2 : State, s1.Ready ∧ s2.Ready ∧ s1.len = s2.len ∧ s1.bytes s1.ptr s1.len = s2.bytes s2.ptr s2.len ∧
      exec .hash s1 = .next t1 ∧ exec .hash s2 = .next t2 ∧ t1.ctx.phase = .done ∧ t2.ctx.phase = .done := by
  have run : ∀ o : Out, field o (fun t => t.ctx.phase) = some .done → ∃ t, o = .next t ∧ t.ctx.phase = .done := by
    intro o h
    cases o with
    | next t => exact ⟨t, rfl, by simpa [field] using h⟩
    | fault f => simp [field] at h
    | refused r => simp [field] at h
  obtain ⟨t1, h1, p1⟩ := run (exec .hash (start abc (idle 0x1000 3))) (by decide +kernel)
  obtain ⟨t2, h2, p2⟩ := run
    (exec .hash { start [(7, 0x61), (8, 0x62), (9, 0x63)] (idle 7 3) with env := { Env.default with capIn := 2 } })
    (by decide +kernel)
  exact ⟨start abc (idle 0x1000 3),
    { start [(7, 0x61), (8, 0x62), (9, 0x63)] (idle 7 3) with env := { Env.default with capIn := 2 } }, t1, t2,
    ⟨rfl, by decide⟩, ⟨rfl, by decide⟩, rfl, by decide, h1, h2, p1, p2⟩

theorem witness_RotateLeft : 1 ≤ 1 ∧ 1 ≤ 31 ∧ (31 + 2) % 32 ≠ 0 ∧ (2 : Nat) ≤ 31 := by decide

theorem witness_ScheduleRecurrence : 15 < 16 ∧ 16 ≤ 16 ∧ 16 ≤ 79 ∧ 79 < 80 := by decide

theorem witness_ManyBlocks :
    (List.replicate 128 (0 : Byte)).length = 64 * 2 ∧ (List.replicate 64 (0 : Byte)).length = 64 * 1 :=
  ⟨List.length_replicate .., List.length_replicate ..⟩

theorem witness_PaddingShape :
    (List.replicate 63 (0 : Byte)).length ≤ 63 ∧ (List.replicate 55 (0 : Byte)).length ≤ 55 := by decide

theorem witness_Primitives :
    let s := micro (pos 0 0 1 0) iv { Units.zero with prim := ⟨60, 0, 0⟩ }
    let r := { start [] (fun c => { busyAt (pos 0 0 0 0) iv Units.zero c with opPtr := 4032, opLen := 1 }) with
      env := { small with refused := [(4032, 1)] } }
    s.ctx.units.prim.off.toNat ≤ 60 ∧ s.SourceReadable 60 4 ∧ r.ctx.units.prim.off.toNat ≤ 60 ∧
      r.SourceRefused 0 4 :=
  ⟨by decide, fun h => absurd h (by decide), by decide, rfl, by decide, 0, by decide, by decide⟩

/-- The last block of the address space, from host memory, with and without a refused byte. -/
def sourceAt (q : Seq) (r : List (Nat × Nat)) : State :=
  { start [] (fun c => { busyAt q iv Units.zero c with opPtr := 4032, opLen := 1 }) with
    env := { small with refused := r } }

theorem witness_ScheduleLoad :
    (sourceAt (pos 15 0 0 0) []).ctx.seq.t.toNat = 15 ∧ (sourceAt (pos 15 0 0 0) []).SourceReadable 60 4 ∧
      (sourceAt (pos 0 0 0 0) [(4035, 1)]).ctx.seq.t.toNat = 0 ∧
      (sourceAt (pos 0 0 0 0) [(4035, 1)]).SourceRefused 0 4 :=
  ⟨by decide, fun _ => ⟨by decide, by decide⟩, by decide, rfl, by decide, 3, by decide, by decide⟩

theorem witness_ScheduleExpand :
    (micro (pos 16 0 0 0) iv Units.zero).ctx.seq.t.toNat = 16 ∧
      (micro (pos 79 0 0 0) iv Units.zero).ctx.seq.t.toNat = 79 := by decide

theorem witness_ScalarRounds :
    (round 0 0 iv).ctx.seq.t.toNat = 0 ∧ (round 19 0 iv).ctx.seq.t.toNat = 19 ∧ (round 20 0 iv).ctx.seq.t.toNat = 20 ∧
      (round 39 0 iv).ctx.seq.t.toNat = 39 ∧ (round 40 0 iv).ctx.seq.t.toNat = 40 ∧
      (round 59 0 iv).ctx.seq.t.toNat = 59 ∧ (round 60 0 iv).ctx.seq.t.toNat = 60 ∧
      (round 79 0 iv).ctx.seq.t.toNat = 79 := by decide

theorem witness_VectorInit : running.env.hasA = true ∧ running.env.hasB = true := by decide

theorem witness_VectorLoad :
    (sourceAt (pos 0 3 0 0) []).env.hasA = true ∧ (sourceAt (pos 0 3 0 0) []).env.hasB = true ∧
      (sourceAt (pos 0 3 0 0) []).ctx.seq.grp.toNat = 3 ∧ (sourceAt (pos 0 3 0 0) []).SourceReadable 48 16 ∧
      (sourceAt (pos 0 0 0 0) [(4047, 1)]).ctx.seq.grp.toNat = 0 ∧
      (sourceAt (pos 0 0 0 0) [(4047, 1)]).SourceRefused 0 16 :=
  ⟨rfl, rfl, by decide, fun _ => ⟨by decide, by decide⟩, by decide, rfl, by decide, 15, by decide, by decide⟩

theorem witness_ScheduleUnitA : running.env.hasA = true := rfl
theorem witness_AddConstantUnitA : running.env.hasA = true := rfl
theorem witness_FourRoundsUnitA : running.env.hasA = true := rfl
theorem witness_VectorAccumulate : running.env.hasA = true ∧ running.env.hasB = true := ⟨rfl, rfl⟩
theorem witness_ScheduleUnitB : running.env.hasB = true := rfl
theorem witness_AddEUnitB : running.env.hasB = true := rfl
theorem witness_FourRoundsUnitB : running.env.hasB = true := rfl

theorem witness_PadCopy :
    (last63 (open_ .generic) []).Readable 4033 63 ∧ (last63 (open_ .generic) [(4095, 1)]).Refused 4033 63 :=
  ⟨⟨by decide, by decide⟩, by decide, 62, by decide, by decide⟩

theorem witness_EncodeWord :
    (micro (pos 0 0 0 0) iv Units.zero).ctx.seq.k5.toNat = 0 ∧ (micro (pos 0 0 0 4) iv Units.zero).ctx.seq.k5.toNat = 4
    := by decide

theorem witness_MicroOperationStops :
    15 < (micro (pos 16 0 0 0) iv Units.zero).ctx.seq.t.toNat ∧
      (micro (pos 15 0 0 0) iv Units.zero).ctx.seq.t.toNat < 16 ∧
      79 < (micro (pos 80 0 0 0) iv Units.zero).ctx.seq.t.toNat ∧
      4 < (micro (pos 0 0 0 5) iv Units.zero).ctx.seq.k5.toNat ∧
      60 < (micro (pos 0 0 0 0) iv { Units.zero with prim := ⟨61, 0, 0⟩ }).ctx.units.prim.off.toNat ∧
      3 < (micro (pos 0 4 0 0) iv Units.zero).ctx.seq.grp.toNat ∧ running.env.hasA = true ∧
      running.env.hasB = true ∧ (cached 0 false false).env.hasA = false ∧ (cached 0 false false).env.hasB = false := by
  decide

/-- A block of zeros in host memory, and one in SCRATCH, at each unit's first micro-operation. -/
theorem witness_UnitSequences :
    running.ctx.busy = true ∧ running.BlockIs (List.replicate 64 0) ∧ running.ctx.seq.uir = 0x90 ∧
      (let s := micro { pos 0 0 2 0 with uir := 0xAC } iv (withScratch (Vector.replicate 64 0));
        s.ctx.busy = true ∧ s.BlockIs (List.replicate 64 0) ∧ s.ctx.seq.uir = 0xAC ∧ s.env.hasA = true) ∧
      (let s := micro { pos 0 0 1 0 with uir := 0xBB } iv (withScratch (Vector.replicate 64 0));
        s.ctx.busy = true ∧ s.BlockIs (List.replicate 64 0) ∧ s.ctx.seq.uir = 0xBB ∧ s.env.hasB = true) :=
  ⟨rfl, ⟨rfl, by decide⟩, rfl, ⟨rfl, ⟨rfl, by decide +kernel⟩, rfl, rfl⟩, rfl, ⟨rfl, by decide +kernel⟩, rfl, rfl⟩

/-- A command that is issued and takes micro-steps: FINALIZE of "abc" (95 section 8: 4 + 162). -/
theorem witness_CommandRefinement :
    Instr.isCommand .finalize = true ∧ (start abc (open_ .generic 0x1000 3)).ctx.busy = false ∧
      field (issue .finalize (start abc (open_ .generic 0x1000 3))) (fun t => t.ctx.busy) = some true := by decide

theorem witness_EngineFrame : ∃ t, exec .wrLoad running = .next t := ⟨_, rfl⟩

/-- A command in one context beside one that runs; a store, which has no context; and the running one alone. -/
theorem witness_StepIsolation :
    let s : State := { running with after := [Context.reset], events := [.write 1 0 0x11] }
    let u : State := { s with events := [.store 7 1] }
    let r : State := { s with events := [] }
    (∃ t, step s = .next t) ∧ (∀ v rest, s.events ≠ .reset v :: rest) ∧ s.mover = some 1 ∧ s.mover ≠ some 0 ∧
      (∃ t, step u = .next t) ∧ (∀ v rest, u.events ≠ .reset v :: rest) ∧ u.mover = none ∧
      (∃ t, step r = .next t) ∧ (∀ v rest, r.events ≠ .reset v :: rest) ∧ r.mover = some 0 :=
  ⟨⟨_, rfl⟩, by simp, rfl, by decide, ⟨_, rfl⟩, by simp, rfl, ⟨_, rfl⟩, by simp, rfl⟩

/-- TRANSFORM of one block, issued and not yet begun: it meets the invariant and stands at a legal position. -/
def begun : State :=
  start abc fun c => { busyAt (pos 0 0 0 0) iv Units.zero c with opPtr := 0x1000, opLen := 1 }

theorem begun_inv : begun.Inv := by
  refine ⟨⟨by decide, by decide, by decide, by decide, by decide, by decide, by decide, by decide⟩, rfl, ?_, by decide,
    fun h => Bool.noConfusion h, ?_⟩
  · intro c hc
    have h : c.1 = 0x1000 ∨ c.1 = 0x1001 ∨ c.1 = 0x1002 := by
      simp only [begun, start, abc, List.mem_cons, List.not_mem_nil, or_false] at hc
      rcases hc with rfl | rfl | rfl <;> simp
    show c.1 < 2 ^ 64
    omega
  · intro c hc
    obtain rfl : c = begun.ctx := by simpa [State.file, begun, start, State.reset] using hc
    exact ⟨by decide, by decide, by decide, by decide, fun _ => rfl, fun _ _ => rfl⟩

theorem begun_legal : begun.Legal := by
  intro c hc _
  obtain rfl : c = begun.ctx := by simpa [State.file, begun, start, State.reset] using hc
  exact ⟨.wrLoad, rfl, rfl, rfl, .inl ⟨rfl, by decide, .inl ⟨rfl, by decide⟩⟩⟩

theorem witness_StepKeepsInv : begun.Inv ∧ ∃ t, step begun = .next t := ⟨begun_inv, _, rfl⟩

theorem witness_StepRunsOn :
    begun.Inv ∧ begun.Legal ∧ Event.wf begun.numCtx begun.env.addrW (.write 0 3 5) = true ∧
      Event.wf begun.numCtx begun.env.addrW (.store 0x1040 5) = true ∧ begun.bufferInUse 0x1040 = false ∧
      begun.bufferInUse 0x103F = true := ⟨begun_inv, begun_legal, by decide, by decide, by decide, by decide⟩

/-- A context stopped by a fault beside one that runs. -/
def faultedBeside : State :=
  { begun with after := [{ Context.reset with phase := .fault, fault := some .accessFault, fcmd := 0x30 }] }

theorem faultedBeside_inv : faultedBeside.Inv := by
  obtain ⟨he, hm, ha, hc, hv, hf⟩ := begun_inv
  refine ⟨he, hm, ha, hc, hv, ?_⟩
  intro c h
  rcases List.mem_cons.mp h with rfl | h
  · exact hf _ (List.mem_cons_self ..)
  · obtain rfl := List.mem_singleton.mp h
    exact ⟨by decide, by decide, by decide, by decide, by decide, by decide⟩

theorem witness_OnlyResetLeavesFault :
    faultedBeside.Inv ∧ (∃ t, step faultedBeside = .next t) ∧ (∀ v rest, faultedBeside.events ≠ .reset v :: rest) ∧
      ∃ c, faultedBeside.file[1]? = some c ∧ c.phase = .fault :=
  ⟨faultedBeside_inv, ⟨_, rfl⟩, by simp [faultedBeside, begun, start, State.reset], _, rfl, rfl⟩

theorem witness_SelectionFixed :
    ∃ t c c', step begun = .next t ∧ (∀ v rest, begun.events ≠ .reset v :: rest) ∧ begun.file[0]? = some c ∧
      c.phase = .absorb ∧ t.file[0]? = some c' ∧ c'.phase ≠ .fault :=
  ⟨_, _, _, rfl, by simp [begun, start, State.reset], rfl, rfl, rfl, by decide⟩

theorem witness_CacheWrittenOnce :
    (∃ t, step { State.reset with events := [.write 0 0 0x01] } = .next t) ∧
      ∀ v rest, ({ State.reset with events := [.write 0 0 0x01] } : State).events ≠ .reset v :: rest :=
  ⟨⟨_, rfl⟩, by simp⟩

end Sys2Proof.Tests
end

section
/-!
PROOFS. The three compression units compute one function (R131, R181): four scalar rounds and four schedule words at a
time, and what each vector unit holds at the start of a group.
-/

namespace Sys2Proof.Machine

/-! ## Rotations -/

/-- Bit `i` of a rotation comes from `n` places below (R106). -/
theorem getLsbD_rotl32 (x : Word) {n i : Nat} (hn : n < 32) (hi : i < 32) :
    (rotl32 x n).getLsbD i = x.getLsbD ((i + 32 - n) % 32) := by
  rw [rotl32, BitVec.getLsbD_rotateLeft, Nat.mod_eq_of_lt hn]
  by_cases h : i < n
  · rw [cond_eq_ite, if_pos (by simpa using h)]
    congr 1
    omega
  · rw [cond_eq_ite, if_neg (by simpa using h), decide_eq_true hi, Bool.true_and]
    congr 1
    omega

/-- Rotation distributes over `^` (R106). -/
theorem rotl32_xor (x y : Word) (n : Nat) : rotl32 (x ^^^ y) n = rotl32 x n ^^^ rotl32 y n := by
  ext i hi
  simp only [rotl32, BitVec.getElem_rotateLeft, BitVec.getElem_xor]
  split <;> rfl

/-- Two rotations compose (R106). -/
theorem rotl32_rotl32 (x : Word) {m n : Nat} (h : m + n < 32) : rotl32 (rotl32 x m) n = rotl32 x (m + n) := by
  refine BitVec.eq_of_getLsbD_eq fun i hi => ?_
  rw [getLsbD_rotl32 _ (by omega) hi, getLsbD_rotl32 _ (by omega) (by omega), getLsbD_rotl32 _ h hi]
  congr 1
  omega

/-! ## The schedule -/

/-- `w` obeys the schedule recurrence (R145). -/
def IsSchedule (w : List Word) : Prop :=
  ∀ i, i < 64 → w.getD (i + 16) 0 = schedWord (w.getD (i + 13) 0) (w.getD (i + 8) 0) (w.getD (i + 2) 0) (w.getD i 0)

theorem getD_schedExtend_of_lt (n : Nat) (w : List Word) {i : Nat} (hi : i < w.length) :
    (schedExtend n w).getD i 0 = w.getD i 0 := by
  induction n generalizing w with
  | zero => rfl
  | succ n ih => rw [schedExtend, ih _ (by simp; omega), List.getD_append _ _ _ _ hi]

/-- The first word that `schedExtend` appends. -/
theorem getD_schedExtend_length (n : Nat) (w : List Word) :
    (schedExtend (n + 1) w).getD w.length 0 =
      schedWord (w.getD (w.length - 3) 0) (w.getD (w.length - 8) 0) (w.getD (w.length - 14) 0)
        (w.getD (w.length - 16) 0) := by
  rw [schedExtend, getD_schedExtend_of_lt _ _ (by simp), List.getD_append_right _ _ _ _ le_rfl]
  simp

/-- Every word that `schedExtend` appends obeys the recurrence. -/
theorem getD_schedExtend_add (n : Nat) (w : List Word) {i : Nat} (hw : w.length ≤ i + 16) (hi : i + 16 < w.length + n)
    (hlen : 16 ≤ w.length) :
    (schedExtend n w).getD (i + 16) 0 = schedWord ((schedExtend n w).getD (i + 13) 0)
      ((schedExtend n w).getD (i + 8) 0) ((schedExtend n w).getD (i + 2) 0) ((schedExtend n w).getD i 0) := by
  induction n generalizing w with
  | zero => omega
  | succ n ih =>
    rcases Nat.lt_or_eq_of_le hw with h | h
    · rw [schedExtend]
      exact ih _ (by simp; omega) (by simp; omega) (by simp; omega)
    · have old (j : Nat) (hj : j < w.length) := getD_schedExtend_of_lt (n + 1) w hj
      rw [old (i + 13) (by omega), old (i + 8) (by omega), old (i + 2) (by omega), old i (by omega), ← h,
        getD_schedExtend_length, h]
      rfl

theorem length_schedLoad (bk : List Byte) : (schedLoad bk).length = 16 := by simp [schedLoad]

theorem isSchedule_schedule (bk : List Byte) : IsSchedule (schedule bk) := fun i hi =>
  getD_schedExtend_add 64 (schedLoad bk) (by simp [length_schedLoad]) (by simp [length_schedLoad]; omega)
    (by simp [length_schedLoad])

/-- The first sixteen words of a schedule (R142 step 1). -/
theorem getD_schedule_of_lt (bk : List Byte) {j : Nat} (hj : j < 16) : (schedule bk).getD j 0 = loadBE bk (4 * j) := by
  rw [schedule, getD_schedExtend_of_lt _ _ (by simpa [length_schedLoad] using hj)]
  simp [schedLoad, List.getD_eq_getElem?_getD, hj]

/-! ## Four scalar rounds at a time -/

/-- The first `n` rounds over a schedule. -/
def roundsUpTo (w : List Word) (q : Quint) (n : Nat) : Quint :=
  (List.range n).foldl (fun q t => roundStep (t / 20) (w.getD t 0) q) q

theorem roundsUpTo_succ (w : List Word) (q : Quint) (n : Nat) :
    roundsUpTo w q (n + 1) = roundStep (n / 20) (w.getD n 0) (roundsUpTo w q n) := by
  simp [roundsUpTo, List.range_succ]

/-- Words `4g` to `4g+3` of a schedule as a vector. -/
def schedVec (w : List Word) (g : Nat) : Vec4 :=
  ⟨w.getD (4 * g) 0, w.getD (4 * g + 1) 0, w.getD (4 * g + 2) 0, w.getD (4 * g + 3) 0⟩

theorem schedVec_schedule_of_lt (bk : List Byte) {g : Nat} (hg : g < 4) :
    schedVec (schedule bk) g = loadVec bk (16 * g) := by
  have word (i o : Nat) (hi : i < 16) (ho : o = 4 * i) : (schedule bk).getD i 0 = loadBE bk o := by
    rw [getD_schedule_of_lt bk hi, ho]
  unfold schedVec loadVec
  rw [word (4 * g) (16 * g) (by omega) (by omega), word (4 * g + 1) (16 * g + 4) (by omega) (by omega),
    word (4 * g + 2) (16 * g + 8) (by omega) (by omega), word (4 * g + 3) (16 * g + 12) (by omega) (by omega)]

/-- Four rounds of stage `s` on the words of `x`. -/
def fourRoundSteps (s : Nat) (x : Vec4) (q : Quint) : Quint :=
  roundStep s x.l3 (roundStep s x.l2 (roundStep s x.l1 (roundStep s x.l0 q)))

theorem roundsUpTo_four (w : List Word) (q : Quint) (g : Nat) :
    roundsUpTo w q (4 * (g + 1)) = fourRoundSteps (g / 5) (schedVec w g) (roundsUpTo w q (4 * g)) := by
  have stage (j : Nat) (hj : j < 4) : (4 * g + j) / 20 = g / 5 := by omega
  rw [show 4 * (g + 1) = 4 * g + 3 + 1 by omega]
  simp only [roundsUpTo_succ, stage 3, stage 2, stage 1, show 4 * g / 20 = g / 5 by omega, Nat.reduceLT]
  rfl

/-- The `e` after four rounds is the rotated `a` of before them (R188, R201). -/
theorem fourRoundSteps_e (s : Nat) (x : Vec4) (q : Quint) : (fourRoundSteps s x q).e = rotl32 q.a 30 := rfl

/-- `Rounds4` is four rounds whose constant is already in the words (R182, R187). -/
theorem rounds4_addK (s : Nat) (q : Quint) (x : Vec4) :
    rounds4 s q.abcd q.e (x.map fun w => add32 w (roundK s)) = (fourRoundSteps s x q).abcd := by
  simp [rounds4, fourRoundSteps, roundStep, add32, Vec4.map, Quint.abcd, BitVec.add_assoc]

/-- `Rounds4` may take its `e` in the first word (R202). -/
theorem rounds4_zero_e (s : Nat) (v : Vec4) (e : Word) (x : Vec4) (k : Word) :
    rounds4 s v 0 (({ x with l0 := add32 x.l0 e } : Vec4).map fun w => add32 w k) =
      rounds4 s v e (x.map fun w => add32 w k) := by
  have first (f a : Word) : 0 + f + (x.l0 + e + k) + a = e + f + (x.l0 + k) + a := by
    rw [zero_add]; ac_rfl
  simp only [rounds4, Vec4.map, add32, first]

/-- The stage only matters for its round function. -/
theorem rounds4_congr {s s' : Nat} (h : roundF s = roundF s') (v : Vec4) (e : Word) (x : Vec4) :
    rounds4 s v e x = rounds4 s' v e x := by simp only [rounds4, h]

/-! ## The rolling window -/

theorem Window.get_congr (m : Window) {i j : Nat} (h : i % 4 = j % 4) : m.get i = m.get j := by
  simp only [Window.get, h]

theorem Window.get_set (m : Window) (i j : Nat) (v : Vec4) :
    (m.set i v).get j = if j % 4 = i % 4 then v else m.get j := by
  have key (a b : Nat) (ha : a < 4) (hb : b < 4) : (m.set a v).get b = if b = a then v else m.get b := by
    interval_cases a <;> interval_cases b <;> rfl
  have := key (i % 4) (j % 4) (Nat.mod_lt _ (by omega)) (Nat.mod_lt _ (by omega))
  rwa [show m.set (i % 4) v = m.set i v by simp only [Window.set, Nat.mod_mod],
    Window.get_congr _ (Nat.mod_mod j 4), Window.get_congr m (Nat.mod_mod j 4)] at this

/-- At the start of group `g` the window holds the four vectors of the schedule that end before `g`, or the first four
(R182). -/
def Window.Holds (w : List Word) (g : Nat) (m : Window) : Prop :=
  ∀ i, g ≤ i + 4 → i < 4 ∨ i < g → m.get i = schedVec w i

/-- Loading the four vectors of a block (R184, R196). -/
theorem Window.holds_of_loads (bk : List Byte) {m : Window}
    (h : ∀ i, i < 4 → m.get i = loadVec bk (16 * i)) : m.Holds (schedule bk) 0 := fun i _ hi => by
  have hi : i < 4 := by omega
  rw [h i hi, schedVec_schedule_of_lt bk hi]

/-- Below group 4 the window stays as it is. -/
theorem Window.Holds.succ_of_lt {w : List Word} {g : Nat} {m : Window} (h : m.Holds w g) (hg : g < 4) :
    m.Holds w (g + 1) := fun i h1 h2 => h i (by omega) (by omega)

/-- From group 4 on the new vector takes the place of the oldest. -/
theorem Window.Holds.set {w : List Word} {g : Nat} {m : Window} (h : m.Holds w g) (hg : 4 ≤ g) :
    (m.set g (schedVec w g)).Holds w (g + 1) := fun i h1 h2 => by
  rw [Window.get_set]
  split_ifs with hi
  · rw [show i = g by omega]
  · exact h i (by omega) (by omega)

/-- What the window of group `k + 4` gives at the four places that the schedule update reads. -/
theorem Window.Holds.get {w : List Word} {k : Nat} {m : Window} (h : m.Holds w (k + 4)) :
    m.get (k + 4) = schedVec w k ∧ m.get (k + 4 + 1) = schedVec w (k + 1) ∧ m.get (k + 4 + 2) = schedVec w (k + 2) ∧
      m.get (k + 4 + 3) = schedVec w (k + 3) := by
  have old (j : Nat) (hj : j < 4) : m.get (k + 4 + j) = schedVec w (k + j) := by
    rw [Window.get_congr m (show (k + 4 + j) % 4 = (k + j) % 4 by omega), h (k + j) (by omega) (by omega)]
  exact ⟨old 0 (by omega), old 1 (by omega), old 2 (by omega), old 3 (by omega)⟩

/-- The vector of group `k + 4` from the four before it (R145). -/
theorem schedVec_add_four {w : List Word} (hw : IsSchedule w) {k : Nat} (hk : k < 16) :
    schedVec w (k + 4) =
      let x0 := schedVec w k
      let x1 := schedVec w (k + 1)
      let x2 := schedVec w (k + 2)
      let x3 := schedVec w (k + 3)
      let y0 := schedWord x3.l1 x2.l0 x0.l2 x0.l0
      ⟨y0, schedWord x3.l2 x2.l1 x0.l3 x0.l1, schedWord x3.l3 x2.l2 x1.l0 x0.l2, schedWord y0 x2.l3 x1.l1 x0.l3⟩ := by
  have word (j : Nat) (hj : j < 4) := hw (4 * k + j) (by omega)
  have h0 := word 0 (by omega)
  have h1 := word 1 (by omega)
  have h2 := word 2 (by omega)
  have h3 := word 3 (by omega)
  simp only [schedVec, Nat.mul_add, Nat.reduceMul, Nat.add_assoc, Nat.reduceAdd, Nat.add_zero] at h0 h1 h2 h3 ⊢
  rw [← h0, ← h1, ← h2, ← h3]

/-! ## Unit A -/

/-- Unit A at the start of group `g`: `a` to `e` after `4g` rounds, and the window. -/
structure UnitA.Holds (w : List Word) (h : Quint) (g : Nat) (u : UnitA) : Prop where
  abcd : u.abcd = (roundsUpTo w h (4 * g)).abcd
  e0 : u.e0 = (roundsUpTo w h (4 * g)).e
  window : u.m.Holds w g

/-- VA.SU0 and VA.SU1 put the next four schedule words into the window (R185, R186). -/
theorem UnitA.update_m {w : List Word} (hw : IsSchedule w) {g : Nat} (h4 : 4 ≤ g) (hg : g < 20) {u : UnitA}
    (hm : u.m.Holds w g) : ((u.su0 g).su1 g).m = u.m.set g (schedVec w g) := by
  obtain ⟨k, rfl⟩ := Nat.exists_eq_add_of_le' h4
  obtain ⟨h0, h1, h2, h3⟩ := hm.get
  rw [schedVec_add_four hw (by omega)]
  simp only [UnitA.su0, UnitA.su1, h0, h1, h2, h3, schedWord, rotl32_xor, rotl32_rotl32 _ (show 1 + 1 < 32 by omega)]
  congr 2 <;> ac_rfl

/-- The stages' functions by groups (R193): stages 1 and 3 share theirs. -/
theorem roundF_groupStageA {g : Nat} (hg : g < 20) : roundF (groupStageA g) = roundF (g / 5) := by
  interval_cases g <;> rfl

/-- The rounds of group `g`, the window being up to date (R187 to R191). -/
theorem UnitA.Holds.rounds {w : List Word} {h : Quint} {g : Nat} {u : UnitA} (hg : g < 20)
    (habcd : u.abcd = (roundsUpTo w h (4 * g)).abcd) (he : u.e0 = (roundsUpTo w h (4 * g)).e)
    (hm : u.m.Holds w (g + 1)) :
    (((u.addK (g / 5) g).hRotate).fourRounds (groupStageA g)).Holds w h (g + 1) := by
  refine ⟨?_, ?_, hm⟩
  · simp only [UnitA.fourRounds, UnitA.hRotate, UnitA.addK, habcd, he, hm g (by omega) (by omega)]
    rw [rounds4_congr (roundF_groupStageA hg), rounds4_addK, roundsUpTo_four]
  · rw [roundsUpTo_four, fourRoundSteps_e]
    simp only [UnitA.fourRounds, UnitA.hRotate, UnitA.addK, habcd]
    rfl

theorem UnitA.Holds.group {w : List Word} (hw : IsSchedule w) {h : Quint} {g : Nat} (hg : g < 20) {u : UnitA}
    (hu : u.Holds w h g) : (u.group g).Holds w h (g + 1) := by
  unfold UnitA.group
  obtain ⟨habcd, he, hm⟩ := hu
  by_cases h4 : 4 ≤ g
  · simp only [if_pos h4]
    exact UnitA.Holds.rounds hg habcd he (UnitA.update_m hw h4 hg hm ▸ hm.set h4)
  · simp only [if_neg h4]
    exact UnitA.Holds.rounds hg habcd he (hm.succ_of_lt (by omega))

/-- Unit A after VA.INIT and `n` loads, from registers `u` (R183, R184). -/
def UnitA.loaded (h : Quint) (bk : List Byte) (u : UnitA) (n : Nat) : UnitA :=
  (List.range n).foldl (fun u g => u.putWords g (loadVec bk (16 * g))) (UnitA.load h u)

theorem UnitA.loaded_succ (h : Quint) (bk : List Byte) (u : UnitA) (n : Nat) :
    UnitA.loaded h bk u (n + 1) = (UnitA.loaded h bk u n).putWords n (loadVec bk (16 * n)) := by
  simp [UnitA.loaded, List.range_succ]

/-- Unit A after the loads and `n` groups (R193). -/
def UnitA.afterGroups (h : Quint) (bk : List Byte) (u : UnitA) (n : Nat) : UnitA :=
  (List.range n).foldl (fun u g => u.group g) (UnitA.loaded h bk u 4)

theorem UnitA.afterGroups_succ (h : Quint) (bk : List Byte) (u : UnitA) (n : Nat) :
    UnitA.afterGroups h bk u (n + 1) = (UnitA.afterGroups h bk u n).group n := by
  simp [UnitA.afterGroups, List.range_succ]

theorem UnitA.afterGroups_holds (h : Quint) (bk : List Byte) (u : UnitA) {n : Nat} (hn : n ≤ 20) :
    (UnitA.afterGroups h bk u n).Holds (schedule bk) h n := by
  induction n with
  | zero => exact ⟨rfl, rfl, Window.holds_of_loads bk fun i hi => by interval_cases i <;> rfl⟩
  | succ n ih =>
    rw [UnitA.afterGroups_succ]
    exact (ih (by omega)).group (isSchedule_schedule bk) (by omega)

/-- Unit A computes `Compress`, whatever its registers held before (R193). -/
theorem UnitA.accumulate_afterGroups (h : Quint) (bk : List Byte) (u : UnitA) :
    (UnitA.afterGroups h bk u 20).accumulate h = compress h bk := by
  obtain ⟨habcd, he, _⟩ := UnitA.afterGroups_holds h bk u le_rfl
  simp only [UnitA.accumulate, habcd, he]
  rfl

theorem compressA_eq_compress (h : Quint) (bk : List Byte) : compressA h bk = compress h bk :=
  UnitA.accumulate_afterGroups h bk default

/-! ## Unit B -/

/-- Unit B at the start of group `g`: as unit A, but `e` is the rotated `a` of before the last group, or `H[4]`
(R200, R201). -/
structure UnitB.Holds (w : List Word) (h : Quint) (g : Nat) (u : UnitB) : Prop where
  abcd : u.abcd = (roundsUpTo w h (4 * g)).abcd
  prev : g ≠ 0 → rotl32 u.prev.l0 30 = (roundsUpTo w h (4 * g)).e
  window : u.m.Holds w g

/-- VB.MSG1, VB.XOR and VB.MSG2 put the next four schedule words into the window (R197 to R199). -/
theorem UnitB.update_m {w : List Word} (hw : IsSchedule w) {g : Nat} (h4 : 4 ≤ g) (hg : g < 20) {u : UnitB}
    (hm : u.m.Holds w g) : (((u.msg1 g).xorT g).msg2 g).m = u.m.set g (schedVec w g) := by
  obtain ⟨k, rfl⟩ := Nat.exists_eq_add_of_le' h4
  obtain ⟨h0, h1, h2, h3⟩ := hm.get
  rw [schedVec_add_four hw (by omega)]
  simp only [UnitB.msg1, UnitB.xorT, UnitB.msg2, h0, h1, h2, h3, schedWord]
  congr 2 <;> ac_rfl

/-- The rounds of group `g`, `e` already added to the first word (R202). -/
theorem UnitB.Holds.rounds {w : List Word} {h : Quint} {g : Nat} {u : UnitB}
    (habcd : u.abcd = (roundsUpTo w h (4 * g)).abcd) (hm : u.m.Holds w (g + 1))
    (hew : u.ew = { schedVec w g with l0 := add32 (schedVec w g).l0 (roundsUpTo w h (4 * g)).e }) :
    (u.fourRounds (g / 5)).Holds w h (g + 1) := by
  refine ⟨?_, fun _ => ?_, hm⟩
  · simp only [UnitB.fourRounds, habcd, hew]
    rw [rounds4_zero_e, rounds4_addK, roundsUpTo_four]
  · rw [roundsUpTo_four, fourRoundSteps_e]
    simp only [UnitB.fourRounds, habcd]
    rfl

theorem UnitB.Holds.group {w : List Word} (hw : IsSchedule w) {h : Quint} {g : Nat} (hg : g < 20) {u : UnitB}
    (hu : u.Holds w h g) : (u.group h g).Holds w h (g + 1) := by
  obtain ⟨habcd, he, hm⟩ := hu
  obtain ⟨v, hv, hvabcd, hvprev, hvm⟩ : ∃ v, v = (if 4 ≤ g then ((u.msg1 g).xorT g).msg2 g else u) ∧
      v.abcd = u.abcd ∧ v.prev = u.prev ∧ v.m.Holds w (g + 1) := by
    by_cases h4 : 4 ≤ g
    · exact ⟨_, (if_pos h4).symm, rfl, rfl, UnitB.update_m hw h4 hg hm ▸ hm.set h4⟩
    · exact ⟨_, (if_neg h4).symm, rfl, rfl, hm.succ_of_lt (by omega)⟩
  unfold UnitB.group
  simp only [← hv]
  by_cases h0 : g = 0
  · subst h0
    exact UnitB.Holds.rounds (by rw [← habcd, ← hvabcd]; rfl) hvm (by rw [← hvm 0 (by omega) (by omega)]; rfl)
  · rw [if_neg h0]
    refine UnitB.Holds.rounds (by rw [← habcd, ← hvabcd]; rfl) hvm ?_
    rw [← hvm g (by omega) (by omega), ← he h0, ← hvprev]
    rfl

/-- Unit B after VB.INIT and `n` loads, from registers `u` (R195, R196). -/
def UnitB.loaded (h : Quint) (bk : List Byte) (u : UnitB) (n : Nat) : UnitB :=
  (List.range n).foldl (fun u g => u.putWords g (loadVec bk (16 * g))) (UnitB.load h u)

theorem UnitB.loaded_succ (h : Quint) (bk : List Byte) (u : UnitB) (n : Nat) :
    UnitB.loaded h bk u (n + 1) = (UnitB.loaded h bk u n).putWords n (loadVec bk (16 * n)) := by
  simp [UnitB.loaded, List.range_succ]

/-- Unit B after the loads and `n` groups (R204). -/
def UnitB.afterGroups (h : Quint) (bk : List Byte) (u : UnitB) (n : Nat) : UnitB :=
  (List.range n).foldl (fun u g => u.group h g) (UnitB.loaded h bk u 4)

theorem UnitB.afterGroups_succ (h : Quint) (bk : List Byte) (u : UnitB) (n : Nat) :
    UnitB.afterGroups h bk u (n + 1) = (UnitB.afterGroups h bk u n).group h n := by
  simp [UnitB.afterGroups, List.range_succ]

theorem UnitB.afterGroups_holds (h : Quint) (bk : List Byte) (u : UnitB) {n : Nat} (hn : n ≤ 20) :
    (UnitB.afterGroups h bk u n).Holds (schedule bk) h n := by
  induction n with
  | zero => exact ⟨rfl, fun h0 => absurd rfl h0, Window.holds_of_loads bk fun i hi => by interval_cases i <;> rfl⟩
  | succ n ih =>
    rw [UnitB.afterGroups_succ]
    exact (ih (by omega)).group (isSchedule_schedule bk) (by omega)

/-- Unit B computes `Compress`, whatever its registers held before (R204). -/
theorem UnitB.accumulate_afterGroups (h : Quint) (bk : List Byte) (u : UnitB) :
    (UnitB.afterGroups h bk u 20).accumulate h = compress h bk := by
  obtain ⟨habcd, he, _⟩ := UnitB.afterGroups_holds h bk u le_rfl
  simp only [UnitB.accumulate, habcd, he (by omega)]
  rfl

theorem compressB_eq_compress (h : Quint) (bk : List Byte) : compressB h bk = compress h bk :=
  UnitB.accumulate_afterGroups h bk default

/-- Whichever unit is selected, a block is compressed by the function of R142 (R131). -/
@[simp] theorem compressWith_eq_compress (b : Backend) : compressWith b = compress := by
  funext h bk
  cases b with
  | generic => rfl
  | accelA => exact compressA_eq_compress h bk
  | accelB => exact compressB_eq_compress h bk

end Sys2Proof.Machine
end

section
/-!
PROOFS. The digest of a HASH is the hash of its buffer's bytes (R16, R256): the digest encoder, ranges of host memory,
and the parts of HASH that have a value.
-/

namespace Sys2Proof.Machine

/-! ## Writing a byte array from the front -/

/-- The first bytes of `v` are `l`. -/
def Fills {n : Nat} (v : Vector Byte n) (l : List Byte) : Prop := v.toList.take l.length = l

theorem Fills.nil {n : Nat} (v : Vector Byte n) : Fills v [] := rfl

theorem Fills.toList_eq {n : Nat} {v : Vector Byte n} {l : List Byte} (h : Fills v l) (hl : l.length = n) :
    v.toList = l := by
  rwa [Fills, List.take_of_length_le (by simp [hl])] at h

/-- Bytes written right behind the front extend it. -/
theorem Fills.putBytes {n : Nat} {v : Vector Byte n} {l : List Byte} (h : Fills v l) (bs : List Byte)
    (hfit : l.length + bs.length ≤ n) : Fills (putBytes v l.length bs) (l ++ bs) := by
  induction bs generalizing v l with
  | nil => simpa [Machine.putBytes] using h
  | cons b bs ih =>
    have hfit' : l.length < n := by simp at hfit; omega
    have h1 : Fills (v.setIfInBounds l.length b) (l ++ [b]) := by
      unfold Fills at h ⊢
      rw [Vector.toList_setIfInBounds, List.length_append, List.length_singleton, List.take_add_one,
        List.take_set_of_le le_rfl, h]
      simp [hfit']
    have := ih h1 (by simp at hfit ⊢; omega)
    simpa [Machine.putBytes] using this

/-! ## The digest encoder -/

/-- Bit `i` of a word built from four bytes (R100). -/
theorem getLsbD_word32 (b0 b1 b2 b3 : Byte) (i : Nat) :
    (word32 b0 b1 b2 b3).getLsbD i =
      if i < 8 then b3.getLsbD i else if i - 8 < 8 then b2.getLsbD (i - 8)
      else if i - 8 - 8 < 8 then b1.getLsbD (i - 8 - 8) else b0.getLsbD (i - 8 - 8 - 8) := by
  show BitVec.getLsbD (w := 8 + 8 + 8 + 8) (b0 ++ b1 ++ b2 ++ b3) i = _
  simp only [BitVec.getLsbD_append]

/-- A little-endian store of a word built from four bytes gives them in the other order (R245). -/
theorem storeNative32_word32_false (b0 b1 b2 b3 : Byte) :
    storeNative32 (word32 b0 b1 b2 b3) false = [b3, b2, b1, b0] := by
  have byte {o : Nat} {b : Byte} (h : ∀ i, i < 8 → (word32 b0 b1 b2 b3).getLsbD (o + i) = b.getLsbD i) :
      (word32 b0 b1 b2 b3).extractLsb' o 8 = b :=
    BitVec.eq_of_getLsbD_eq fun i hi => by rw [BitVec.getLsbD_extractLsb', h i hi, decide_eq_true hi, Bool.true_and]
  have h3 : (word32 b0 b1 b2 b3).extractLsb' 0 8 = b3 := byte fun i hi => by
    rw [getLsbD_word32, if_pos (by omega), Nat.zero_add]
  have h2 : (word32 b0 b1 b2 b3).extractLsb' 8 8 = b2 := byte fun i hi => by
    rw [getLsbD_word32, if_neg (by omega), if_pos (by omega), Nat.add_sub_cancel_left]
  have h1 : (word32 b0 b1 b2 b3).extractLsb' 16 8 = b1 := byte fun i hi => by
    rw [getLsbD_word32, if_neg (by omega), if_neg (by omega), if_pos (by omega), show 16 + i - 8 - 8 = i by omega]
  have h0 : (word32 b0 b1 b2 b3).extractLsb' 24 8 = b0 := byte fun i hi => by
    rw [getLsbD_word32, if_neg (by omega), if_neg (by omega), if_neg (by omega), show 24 + i - 8 - 8 - 8 = i by omega]
  simp [storeNative32, h0, h1, h2, h3]

/-- Either path stores a word most significant byte first (R240). -/
theorem digestWord_eq (be : Bool) (x : Word) : digestWord be x = storeNative32 x true := by
  cases be with
  | true => rfl
  | false =>
    rw [digestWord, if_neg (by decide), bswap32, storeNative32_word32_false]
    rfl

@[simp] theorem length_storeNative32 (x : Word) (be : Bool) : (storeNative32 x be).length = 4 := by
  cases be <;> rfl

/-- All twenty bytes of the digest, by either path and over whatever it held (R85, R248). -/
theorem toList_putDigest (be : Bool) (h : Quint) (d : Vector Byte 20) : (putDigest be h d).toList = digestBytes h := by
  have put {d : Vector Byte 20} {l : List Byte} (k : Nat) (hl : l.length = 4 * k) (hk : k < 5) (hd : Fills d l) :
      Fills (putDigestWord be h k d) (l ++ storeNative32 (h.get k) true) := by
    rw [putDigestWord, digestWord_eq, ← hl]
    exact hd.putBytes _ (by simp; omega)
  have h0 := put 0 rfl (by omega) (Fills.nil d)
  have h1 := put 1 (by simp) (by omega) h0
  have h2 := put 2 (by simp) (by omega) h1
  have h3 := put 3 (by simp) (by omega) h2
  have h4 := put 4 (by simp) (by omega) h3
  exact h4.toList_eq (by simp)

/-! ## Ranges of host memory -/

theorem State.bytes_add (s : State) (a m n : Nat) : s.bytes a (m + n) = s.bytes a m ++ s.bytes (a + m) n := by
  simp [State.bytes, List.range_add, Function.comp_def, Nat.add_assoc]

theorem State.drop_bytes (s : State) (a m n : Nat) : (s.bytes a (m + n)).drop m = s.bytes (a + m) n := by
  rw [State.bytes_add, List.drop_left' (State.length_bytes s a m)]

theorem State.take_bytes (s : State) (a m n : Nat) : (s.bytes a (m + n)).take m = s.bytes a m := by
  rw [State.bytes_add, List.take_left' (State.length_bytes s a m)]

/-- Blocks that could be read are absorbed in order, whatever follows them (R141, R153). -/
theorem State.absorb_eq_ok {s : State} {p n m : Nat} {h h' : Quint} (ha : s.absorb p h n = .ok h') (hm : 64 * n ≤ m) :
    h' = compressBlocks h (s.bytes p m) n := by
  induction n generalizing p h m with
  | zero => simpa [State.absorb, compressBlocks] using ha.symm
  | succ n ih =>
    obtain ⟨bk, hbk, hrest⟩ := Res.bind_eq_ok.mp ha
    obtain ⟨k, rfl⟩ := Nat.exists_eq_add_of_le (show 64 ≤ m by omega)
    rw [compressBlocks, State.take_bytes, State.drop_bytes, ← State.memRead_eq_ok hbk]
    rw [compressWith_eq_compress] at hrest
    exact ih hrest (by omega)

/-! ## The one-shot hash -/

/-- The tail that FINALIZE read, compressed into `H` (R220). -/
theorem State.finalizeTail_eq_ok {s t : State} {p n : Nat} (h : s.finalizeTail p n = .ok t) :
    t = (s.setH ((pad (s.bytes p (n % 64)) n).foldl compress s.ctx.h)).setPhase .final := by
  obtain ⟨tail, htail, rfl⟩ := Res.map_eq_ok.mp h
  rw [State.memRead_eq_ok htail, compressWith_eq_compress]

/-- The digest that TRANSFORM, FINALIZE and ENCODE of a HASH leave is a function of the buffer's bytes (R256). -/
theorem State.digest_of_hashMessage {s t : State} (hiv : s.ctx.h = iv) (hm : s.hashMessage = .ok t) :
    t.ctx.digest.toList = sha1 (s.bytes s.ptr s.len) := by
  obtain ⟨s1, h1, hm⟩ := Res.bind_eq_ok.mp hm
  obtain ⟨q, hq, rfl⟩ := Res.map_eq_ok.mp h1
  obtain ⟨s2, h2, rfl⟩ := Res.map_eq_ok.mp hm
  obtain rfl := State.finalizeTail_eq_ok h2
  obtain rfl := State.absorb_eq_ok hq (show 64 * (s.len / 64) ≤ s.len by omega)
  have htail := s.drop_bytes s.ptr (64 * (s.len / 64)) (s.len % 64)
  rw [Nat.div_add_mod] at htail
  simp only [State.encodeDigest, State.setPhase_ctx_digest, State.setDigest_ctx_digest, toList_putDigest, sha1,
    State.length_bytes, htail, State.setPhase_ctx_h, State.setH_ctx_h, hiv]
  rfl

/-- What HASH does before its message: the cache filled, the unit selected, the computation open (R255). -/
theorem State.hashPrepare_eq_ok {s t : State} (h : s.hashPrepare = .ok t) :
    t = (s.fillCaps.setBackend (selectTag s.fillCaps.env s.fillCaps.caps)).startComputation := by
  obtain ⟨u, hu, rfl⟩ := Res.map_eq_ok.mp h
  rw [(State.chooseBackend_eq_ok.mp hu).2]

/-- Filling the cache changes neither the context in focus nor host memory. -/
theorem State.fillCaps_ctx_mem (s : State) : s.fillCaps.ctx = s.ctx ∧ s.fillCaps.mem = s.mem := by
  obtain ⟨_, h⟩ | ⟨_, h⟩ := s.fillCaps_cases <;> rw [h] <;> exact ⟨rfl, rfl⟩

/-- A HASH that ends in DONE leaves the hash of its buffer (R255, R256). -/
theorem digest_of_exec_hash {s t : State} (hr : s.Ready) (h : exec .hash s = .next t) (hd : t.ctx.phase = .done) :
    t.ctx.digest.toList = sha1 (s.bytes s.ptr s.len) := by
  have fault {u : State} {c : Cause} (hu : u.takeFault c hashCode = t) : False := by
    rw [← hu, State.takeFault_ctx_phase] at hd
    cases hd
  rw [show exec .hash s = execHash s from rfl, execHash, State.onCommand_ready hr] at h
  split at h
  · exact (fault (Host.Outcome.next.inj h)).elim
  split at h
  · exact (fault (Host.Outcome.next.inj h)).elim
  · cases h
  rename_i s1 hs1
  obtain h | ⟨c, _, rfl⟩ := State.finish_next h
  · obtain ⟨u, hu, rfl⟩ := Res.map_eq_ok.mp h
    obtain rfl := State.hashPrepare_eq_ok hs1
    obtain ⟨hctx, hmem⟩ := s.fillCaps_ctx_mem
    have key := State.digest_of_hashMessage rfl hu
    simpa [State.bytes, State.ptr, State.len, State.setBackend, hctx, hmem] using key
  · exact (fault rfl).elim

/-- Settles O26: the digest of a HASH is the hash of its buffer's bytes. -/
theorem hashDependsOnBufferOnly : Obligations.HashDependsOnBufferOnly := by
  unfold Obligations.HashDependsOnBufferOnly
  intro s1 s2 t1 t2 hr1 hr2 _ hbytes h1 h2 hd1 hd2
  rw [← Vector.toList_inj, digest_of_exec_hash hr1 h1 hd1, digest_of_exec_hash hr2 h2 hd2, hbytes]

end Sys2Proof.Machine
end

section
/-!
PROOFS. A command micro-operation by micro-operation (R10, R29). `State.inCommand` is the shape every state inside a
command has; each part of a micro-sequence moves from one such state to another (`Steps`) or ends the command on a read
without a value (`Ends`); the parts are then put together command by command.
-/

namespace Sys2Proof.Machine

/-! ## Reads that end a command -/

/-- What keeps a read from having a value: a fault of the engine, or the model's own stop. -/
inductive Halt where
  | raise (c : Cause)
  | stop (f : Fault)

/-- The result of a read that has no value. -/
def Halt.res {α : Type} : Halt → Res α
  | .raise c => .raise c
  | .stop f => .stop f

/-- How a command with byte `code` ends on such a read. -/
def State.halt (s : State) (code : Byte) : Halt → Out
  | .raise c => .next (s.takeFault c code)
  | .stop f => .fault f

@[simp] theorem Halt.bind_res {α β : Type} (e : Halt) (k : α → Res β) : (e.res : Res α).bind k = e.res := by
  cases e <;> rfl

@[simp] theorem Halt.map_res {α β : Type} (e : Halt) (f : α → β) : (e.res : Res α).map f = e.res := by
  cases e <;> rfl

@[simp] theorem State.finish_halt (s : State) (code : Byte) (e : Halt) : s.finish code e.res = s.halt code e := by
  cases e <;> rfl

theorem Res.ok_or_halt {α : Type} (r : Res α) : (∃ a, r = .ok a) ∨ ∃ e : Halt, r = e.res := by
  cases r with
  | ok a => exact .inl ⟨a, rfl⟩
  | raise c => exact .inr ⟨.raise c, rfl⟩
  | stop f => exact .inr ⟨.stop f, rfl⟩

/-! ## Runs of a busy context -/

/-- `n` micro-steps lead from `s` to `t`, the context in focus busy before each of them. -/
def Steps : Nat → State → State → Prop
  | 0, s, t => s = t
  | n + 1, s, t => s.ctx.busy = true ∧ ∃ u, microStep s = .next u ∧ Steps n u t

theorem Steps.trans {m n : Nat} {s t u : State} (h1 : Steps m s t) (h2 : Steps n t u) : Steps (m + n) s u := by
  induction m generalizing s with
  | zero => cases h1; rwa [Nat.zero_add]
  | succ m ih =>
    obtain ⟨hb, v, hv, h1⟩ := h1
    rw [Nat.add_right_comm]
    exact ⟨hb, v, hv, ih h1⟩

/-- A loop: from each round to the next in `c` steps. -/
theorem Steps.loop {c n : Nat} {f : Nat → State} (h : ∀ j, j < n → Steps c (f j) (f (j + 1))) :
    Steps (c * n) (f 0) (f n) := by
  induction n with
  | zero => rfl
  | succ n ih => exact (ih fun j hj => h j (by omega)).trans (h n (by omega))

/-- One micro-operation that leaves the context busy. -/
theorem Steps.one {i : Instr} {s t : State} (hb : s.ctx.busy = true) (hd : decodeMicro s.ctx.seq.uir = some i)
    (he : exec i s = .next t) (ht : t.ctx.busy = true) : Steps 1 s (advance i t) :=
  ⟨hb, _, by simp [microStep, hd, he, ht], rfl⟩

/-- Drained for long enough, `s` ends in `o`. -/
def Ends (s : State) (o : Out) : Prop := ∃ n, drain n s = o

theorem Ends.refl (s : State) : Ends s (.next s) := ⟨0, rfl⟩

theorem Steps.ends {n : Nat} {s t : State} {o : Out} (h : Steps n s t) (he : Ends t o) : Ends s o := by
  induction n generalizing s with
  | zero => cases h; exact he
  | succ n ih =>
    obtain ⟨hb, u, hu, h⟩ := h
    obtain ⟨k, hk⟩ := ih h
    exact ⟨k + 1, by simp [drain, hb, hu, hk]⟩

/-- A micro-operation whose read has no value ends the command. -/
theorem Ends.halt {i : Instr} {s : State} {code : Byte} {e : Halt} (hb : s.ctx.busy = true)
    (hd : decodeMicro s.ctx.seq.uir = some i) (he : exec i s = s.halt code e) : Ends s (s.halt code e) := by
  refine ⟨1, ?_⟩
  cases e with
  | raise c => simp [drain, microStep, State.halt, hb, hd, he]
  | stop f => simp [drain, microStep, State.halt, hb, hd, he]

/-! ## A context inside a command -/

/-- `s` with the context in focus inside a command: digest state `h`, registers `u`, position `q`. -/
def State.inCommand (s : State) (h : Quint) (u : Units) (q : Seq) : State :=
  { s with ctx := { s.ctx with busy := true, h := h, units := u, seq := q } }

theorem State.run_eq_inCommand (s : State) (q : Seq) : s.run q = s.inCommand s.ctx.h s.ctx.units q := rfl

@[simp] theorem State.inCommand_len (s : State) (h : Quint) (u : Units) (q : Seq) :
    (s.inCommand h u q).len = s.len := rfl
@[simp] theorem State.inCommand_seq (s : State) (h : Quint) (u : Units) (q : Seq) :
    (s.inCommand h u q).ctx.seq = q := rfl
@[simp] theorem State.inCommand_units (s : State) (h : Quint) (u : Units) (q : Seq) :
    (s.inCommand h u q).ctx.units = u := rfl

@[simp] theorem State.inCommand_halt (s : State) (h : Quint) (u : Units) (q : Seq) (code : Byte) (e : Halt) :
    (s.inCommand h u q).halt code e = s.halt code e := by
  cases e <;> rfl

/-- The code of a micro-operation names it (R74, R75). -/
theorem decodeMicro_encode {i : Instr} (hi : i.isCommand = false) : decodeMicro (encode i) = some i := by
  cases i with
  | vaAddk k => revert k; decide
  | vbRnds4 f => revert f; decide
  | _ => revert hi; decide

/-- A micro-operation that moves from one such state to another. -/
theorem Steps.inCommand {s : State} {h h' : Quint} {u u' : Units} {q : Seq} (i : Instr) (hi : i.isCommand = false)
    (hq : q.uir = encode i) (he : exec i (s.inCommand h u q) = .next (s.inCommand h' u' q)) :
    Steps 1 (s.inCommand h u q) (advance i (s.inCommand h' u' q)) :=
  Steps.one rfl (hq ▸ decodeMicro_encode hi) he rfl

/-- A micro-operation inside a command whose read has no value. -/
theorem Ends.inCommand_halt {s : State} {h : Quint} {u : Units} {q : Seq} {e : Halt} (i : Instr)
    (hi : i.isCommand = false) (hq : q.uir = encode i) (he : exec i (s.inCommand h u q) = s.halt q.cmd e) :
    Ends (s.inCommand h u q) (s.halt q.cmd e) := by
  rw [← State.inCommand_halt s h u q] at he ⊢
  exact Ends.halt rfl (hq ▸ decodeMicro_encode hi) he

/-! ## Reading the current block -/

/-- The first `n` bytes of the current block read as those of `bk`. -/
def State.ReadsTo (s : State) (bk : List Byte) (n : Nat) : Prop := ∀ o, o < n → s.blockByte o = .ok (byteAt bk o)

theorem State.BlockIs.readsTo {s : State} {bk : List Byte} (h : s.BlockIs bk) : s.ReadsTo bk 64 := h.2

theorem State.ReadsTo.blockWord {s : State} {bk : List Byte} {n o : Nat} (h : s.ReadsTo bk n) (ho : o + 4 ≤ n) :
    s.blockWord o = .ok (loadBE bk o) := by
  simp [State.blockWord, h o (by omega), h (o + 1) (by omega), h (o + 2) (by omega), h (o + 3) (by omega), loadBE]

theorem State.ReadsTo.blockVec {s : State} {bk : List Byte} {n o : Nat} (h : s.ReadsTo bk n) (ho : o + 16 ≤ n) :
    s.blockVec o = .ok (loadVec bk o) := by
  simp [State.blockVec, h.blockWord (o := o) (by omega), h.blockWord (o := o + 4) (by omega),
    h.blockWord (o := o + 8) (by omega), h.blockWord (o := o + 12) (by omega), loadVec]

/-- A word is read up to its first byte without a value. -/
theorem State.ReadsTo.blockWord_halt {s : State} {bk : List Byte} {o a : Nat} {e : Halt} (h : s.ReadsTo bk o)
    (he : s.blockByte o = e.res) (h1 : a ≤ o) (h2 : o < a + 4) : s.blockWord a = e.res := by
  obtain ⟨k, rfl⟩ := Nat.exists_eq_add_of_le h1
  have old (j : Nat) (hj : j < k) := h (a + j) (by omega)
  unfold State.blockWord
  obtain rfl | rfl | rfl | rfl : k = 0 ∨ k = 1 ∨ k = 2 ∨ k = 3 := by omega
  · simpa using congrArg (Res.bind · _) he
  · simp [show s.blockByte a = _ from old 0 (by omega), he]
  · simp [show s.blockByte a = _ from old 0 (by omega), old 1, he]
  · simp [show s.blockByte a = _ from old 0 (by omega), old 1, old 2, he]

/-- Four words are read up to the first byte without a value. -/
theorem State.ReadsTo.blockVec_halt {s : State} {bk : List Byte} {o a : Nat} {e : Halt} (h : s.ReadsTo bk o)
    (he : s.blockByte o = e.res) (h1 : a ≤ o) (h2 : o < a + 16) : s.blockVec a = e.res := by
  have bad (b : Nat) (h1 : b ≤ o) (h2 : o < b + 4) := h.blockWord_halt he h1 h2
  have good (b : Nat) (hb : b + 4 ≤ o) := h.blockWord (o := b) hb
  unfold State.blockVec
  obtain ho | ho | ho | ho : o < a + 4 ∨ (a + 4 ≤ o ∧ o < a + 8) ∨ (a + 8 ≤ o ∧ o < a + 12) ∨ a + 12 ≤ o := by omega
  · simp [bad a h1 ho]
  · simp [good a (by omega), bad (a + 4) (by omega) (by omega)]
  · simp [good a (by omega), good (a + 4) (by omega), bad (a + 8) (by omega) (by omega)]
  · simp [good a (by omega), good (a + 4) (by omega), good (a + 8) (by omega), bad (a + 12) (by omega) (by omega)]

/-! ## Unit G (R152) -/

/-- `q` with the operation `code` next and `T = t`. -/
def Seq.atT (q : Seq) (code : Byte) (t : Nat) : Seq := { q with uir := code, t := BitVec.ofNat 7 t }

theorem State.tCount_atT (s : State) (h : Quint) (u : Units) (q : Seq) (code : Byte) {t : Nat} (ht : t < 128) :
    (s.inCommand h u (q.atT code t)).tCount = t := by
  show (BitVec.ofNat 7 t).toNat = t
  rw [BitVec.toNat_ofNat, Nat.mod_eq_of_lt ht]

theorem State.loopT_atT (s : State) (h : Quint) (u : Units) (q : Seq) {code next : Byte} {t last start : Nat}
    (ht : t < 128) :
    (s.inCommand h u (q.atT code t)).loopT code last next start =
      s.inCommand h u (if t < last then q.atT code (t + 1) else q.atT next start) := by
  rw [State.loopT, State.tCount_atT _ _ _ _ _ ht]
  split_ifs <;> rfl

/-- The position before schedule word `j` is made; after the last one, the first round. -/
def Seq.schedAt (q : Seq) (j : Nat) : Seq :=
  if j < 16 then q.atT 0x91 j else if j < 80 then q.atT 0x92 j else q.atT 0x94 0

/-- The round operation of stage `k` (R147 to R150). -/
def roundOp (k : Nat) : Byte :=
  match k with
  | 0 => 0x94
  | 1 => 0x95
  | 2 => 0x96
  | _ => 0x97

/-- The position before round `j`; after the last one, FEEDFWD. -/
def Seq.roundAt (q : Seq) (j : Nat) : Seq := if j < 80 then q.atT (roundOp (j / 20)) j else q.atT 0x98 0

/-- `W` with its first `n` words those of `l`. -/
def putWords (w : Vector Word 80) (l : List Word) : Nat → Vector Word 80
  | 0 => w
  | n + 1 => (putWords w l n).setIfInBounds n (l.getD n 0)

theorem wAt_putWords (w : Vector Word 80) (l : List Word) {n i : Nat} (hi : i < n) (hn : n ≤ 80) :
    wAt (putWords w l n) i = l.getD i 0 := by
  induction n with
  | zero => omega
  | succ n ih =>
    rw [putWords, wAt, Vector.getElem?_setIfInBounds]
    split_ifs with h h'
    · rw [h, Option.getD_some]
    · omega
    · exact ih (by omega) (by omega)

/-- A micro-operation that is followed by a loop over `T`. -/
theorem Steps.loopT {s : State} {h h' : Quint} {u u' : Units} {q : Seq} (i : Instr) {code next : Byte}
    {t last start : Nat} (hi : i.isCommand = false) (hc : code = encode i)
    (ha : ∀ s, advance i s = s.loopT code last next start) (ht : t < 128)
    (he : exec i (s.inCommand h u (q.atT code t)) = .next (s.inCommand h' u' (q.atT code t))) :
    Steps 1 (s.inCommand h u (q.atT code t))
      (s.inCommand h' u' (if t < last then q.atT code (t + 1) else q.atT next start)) := by
  have key := Steps.inCommand i hi hc he
  rwa [ha, State.loopT_atT _ _ _ _ ht] at key

theorem exec_schedLoad {s : State} {t : Nat} {x : Word} (ht : s.tCount = t) (h : t < 16)
    (hx : s.blockWord (4 * t) = .ok x) : exec .schedLoad s = .next (s.setW t x) := by
  show execSchedLoad s = _
  rw [execSchedLoad, ht, if_pos (by omega), hx]
  rfl

theorem exec_schedExp {s : State} {t : Nat} (ht : s.tCount = t + 16) (h : t < 64) :
    exec .schedExp s = .next (s.setW (t + 16) (schedWord (wAt s.ctx.units.w (t + 13)) (wAt s.ctx.units.w (t + 8))
      (wAt s.ctx.units.w (t + 2)) (wAt s.ctx.units.w t))) := by
  show execSchedExp s = _
  rw [execSchedExp, ht]
  exact if_pos (by omega)

/-- `W` with one more word of `l`. -/
theorem State.setW_putWords (s : State) (h : Quint) (u : Units) (q : Seq) (w : Vector Word 80) (l : List Word)
    (j : Nat) : (s.inCommand h { u with w := putWords w l j } q).setW j (l.getD j 0) =
      s.inCommand h { u with w := putWords w l (j + 1) } q := rfl

/-- SCHED.LOAD goes on to the next word, after the sixteenth to SCHED.EXP. -/
theorem Seq.schedAt_load (q : Seq) {j : Nat} (hj : j < 16) :
    q.schedAt j = q.atT 0x91 j ∧ q.schedAt (j + 1) = if j < 15 then q.atT 0x91 (j + 1) else q.atT 0x92 16 := by
  refine ⟨if_pos hj, ?_⟩
  by_cases h : j < 15
  · rw [if_pos h]
    exact if_pos (by omega)
  · rw [show j = 15 by omega]
    rfl

/-- SCHED.EXP goes on to the next word, after the last to the first round. -/
theorem Seq.schedAt_exp (q : Seq) {j : Nat} (h16 : 16 ≤ j) (hj : j < 80) :
    q.schedAt j = q.atT 0x92 j ∧ q.schedAt (j + 1) = if j < 79 then q.atT 0x92 (j + 1) else q.atT 0x94 0 := by
  have exp (i : Nat) (h16 : 16 ≤ i) (hi : i < 80) : q.schedAt i = q.atT 0x92 i := by
    rw [Seq.schedAt, if_neg (by omega), if_pos hi]
  refine ⟨exp j h16 hj, ?_⟩
  by_cases h : j < 79
  · rw [if_pos h]
    exact exp (j + 1) (by omega) (by omega)
  · rw [show j = 79 by omega]
    rfl

/-- SCHED.LOAD or SCHED.EXP makes the next schedule word (R144, R145). -/
theorem steps_schedWord {s : State} {h : Quint} {u : Units} {q : Seq} {bk : List Byte} {n j : Nat}
    (hr : (s.inCommand h u q).ReadsTo bk n) (hj : j < 80) (hn : j < 16 → 4 * j + 4 ≤ n) :
    Steps 1 (s.inCommand h { u with w := putWords u.w (schedule bk) j } (q.schedAt j))
      (s.inCommand h { u with w := putWords u.w (schedule bk) (j + 1) } (q.schedAt (j + 1))) := by
  have hj' : j < 128 := by omega
  rw [← State.setW_putWords]
  by_cases hlt : j < 16
  · have hr' : (s.inCommand h { u with w := putWords u.w (schedule bk) j } (q.atT 0x91 j)).ReadsTo bk n := hr
    have he := exec_schedLoad (State.tCount_atT s h { u with w := putWords u.w (schedule bk) j } q 0x91 hj') hlt
      (hr'.blockWord (hn hlt))
    rw [← getD_schedule_of_lt bk hlt] at he
    have key := Steps.loopT .schedLoad rfl rfl (fun _ => rfl) hj' he
    obtain ⟨h0, h1⟩ := q.schedAt_load hlt
    rw [h0, h1]
    exact key
  · obtain ⟨k, rfl⟩ := Nat.exists_eq_add_of_le' (show 16 ≤ j by omega)
    have word (i : Nat) (hi : i < k + 16) : wAt (putWords u.w (schedule bk) (k + 16)) i = (schedule bk).getD i 0 :=
      wAt_putWords _ _ hi (by omega)
    have he := exec_schedExp (State.tCount_atT s h { u with w := putWords u.w (schedule bk) (k + 16) } q 0x92 hj')
      (by omega)
    simp only [State.inCommand_units, word (k + 13) (by omega), word (k + 8) (by omega), word (k + 2) (by omega),
      word k (by omega), ← isSchedule_schedule bk k (by omega)] at he
    have key := Steps.loopT .schedExp rfl rfl (fun _ => rfl) hj' he
    obtain ⟨h0, h1⟩ := q.schedAt_exp (j := k + 16) (by omega) hj
    rw [h0, h1]
    exact key

/-- The four rows of rounds are one operation in four stages (R147 to R150). -/
theorem steps_stage {s : State} {h : Quint} {u : Units} {q : Seq} {j last start : Nat} {code next : Byte} (i : Instr)
    (stage : Nat) (hj : j < 80) (hi : i.isCommand = false) (hc : code = encode i)
    (he : ∀ s, exec i s = s.scalarRound stage) (ha : ∀ s, advance i s = s.loopT code last next start) :
    Steps 1 (s.inCommand h u (q.atT code j))
      (s.inCommand h { u with wr := roundStep stage (wAt u.w j) u.wr }
        (if j < last then q.atT code (j + 1) else q.atT next start)) := by
  have hj' : j < 128 := by omega
  refine Steps.loopT i hi hc ha hj' ?_
  rw [he, State.scalarRound, State.tCount_atT _ _ _ _ _ hj', if_pos (by omega)]
  rfl

/-- A stage's rounds go on to its last one, then to the round after it. -/
theorem Seq.roundAt_stage (q : Seq) {j k : Nat} (hj : j < 80) (hk : j / 20 = k) :
    q.roundAt j = q.atT (roundOp k) j ∧
      q.roundAt (j + 1) = if j < 20 * k + 19 then q.atT (roundOp k) (j + 1) else q.roundAt (20 * k + 20) := by
  refine ⟨by rw [Seq.roundAt, if_pos hj, hk], ?_⟩
  by_cases h : j < 20 * k + 19
  · rw [if_pos h, Seq.roundAt, if_pos (by omega), show (j + 1) / 20 = k by omega]
  · rw [if_neg h, show j + 1 = 20 * k + 20 by omega]

/-- Round `j` (R147 to R150). -/
theorem steps_round {s : State} {h : Quint} {u : Units} {q : Seq} {j : Nat} (hj : j < 80) :
    Steps 1 (s.inCommand h u (q.roundAt j))
      (s.inCommand h { u with wr := roundStep (j / 20) (wAt u.w j) u.wr } (q.roundAt (j + 1))) := by
  obtain ⟨k, hk⟩ : ∃ k, j / 20 = k := ⟨_, rfl⟩
  obtain ⟨h0, h1⟩ := q.roundAt_stage hj hk
  rw [h0, h1, hk]
  obtain rfl | rfl | rfl | rfl : k = 0 ∨ k = 1 ∨ k = 2 ∨ k = 3 := by omega
  · exact steps_stage .rndCh 0 hj rfl rfl (fun _ => rfl) fun _ => rfl
  · exact steps_stage .rndPar1 1 hj rfl rfl (fun _ => rfl) fun _ => rfl
  · exact steps_stage .rndMaj 2 hj rfl rfl (fun _ => rfl) fun _ => rfl
  · exact steps_stage .rndPar2 3 hj rfl rfl (fun _ => rfl) fun _ => rfl

/-- Unit G on a block: `H` becomes its compression (R142, R152). -/
theorem steps_unitG {s : State} {h : Quint} {u : Units} {q : Seq} {bk : List Byte}
    (hbk : (s.inCommand h u q).BlockIs bk) (hq : q.uir = 0x90) :
    ∃ r w, Steps 162 (s.inCommand h u q)
      (s.inCommand (compress h bk) { u with wr := r, w := w } (q.atT 0x98 0)).afterBlock := by
  have load : Steps 1 (s.inCommand h u q) (s.inCommand h { u with wr := h } (q.schedAt 0)) :=
    Steps.inCommand .wrLoad rfl hq rfl
  have words := Steps.loop (c := 1) (n := 80)
    (f := fun j => s.inCommand h { u with wr := h, w := putWords u.w (schedule bk) j } (q.schedAt j))
    fun j hj => steps_schedWord (u := { u with wr := h }) hbk.readsTo hj fun _ => by omega
  obtain ⟨w, hw⟩ : ∃ w, w = putWords u.w (schedule bk) 80 := ⟨_, rfl⟩
  have rounds := Steps.loop (c := 1) (n := 80)
    (f := fun j => s.inCommand h { u with wr := roundsUpTo (schedule bk) h j, w := w } (q.roundAt j))
    fun j hj => by
      have key := steps_round (s := s) (h := h) (u := { u with wr := roundsUpTo (schedule bk) h j, w := w }) (q := q) hj
      rwa [show wAt w j = (schedule bk).getD j 0 from hw ▸ wAt_putWords _ _ hj le_rfl, ← roundsUpTo_succ] at key
  have add : Steps 1 (s.inCommand h { u with wr := roundsUpTo (schedule bk) h 80, w := w } (q.atT 0x98 0))
      (s.inCommand (compress h bk) { u with wr := roundsUpTo (schedule bk) h 80, w := w } (q.atT 0x98 0)).afterBlock :=
    Steps.inCommand .feedfwd rfl rfl rfl
  rw [← hw] at words
  exact ⟨_, _, ((load.trans words).trans rounds).trans add⟩

/-- Unit G on a block with a byte that has no value. -/
theorem ends_unitG {s : State} {h : Quint} {u : Units} {q : Seq} {bk : List Byte} {o : Nat} {e : Halt}
    (hr : (s.inCommand h u q).ReadsTo bk o) (ho : o < 64) (he : (s.inCommand h u q).blockByte o = e.res)
    (hq : q.uir = 0x90) : Ends (s.inCommand h u q) (s.halt q.cmd e) := by
  have load : Steps 1 (s.inCommand h u q) (s.inCommand h { u with wr := h } (q.schedAt 0)) :=
    Steps.inCommand .wrLoad rfl hq rfl
  have words := Steps.loop (c := 1) (n := o / 4)
    (f := fun j => s.inCommand h { u with wr := h, w := putWords u.w (schedule bk) j } (q.schedAt j))
    fun j hj => steps_schedWord (u := { u with wr := h }) hr (by omega) fun _ => by omega
  refine (load.trans words).ends ?_
  rw [(q.schedAt_load (j := o / 4) (by omega)).1]
  refine Ends.inCommand_halt .schedLoad rfl rfl ?_
  have hr' : (s.inCommand h { u with wr := h, w := putWords u.w (schedule bk) (o / 4) } (q.atT 0x91 (o / 4))).ReadsTo
    bk o := hr
  show execSchedLoad _ = _
  rw [execSchedLoad, State.tCount_atT _ _ _ _ _ (by omega), if_pos (by omega),
    hr'.blockWord_halt he (by omega) (by omega), Halt.map_res, State.finish_halt, State.inCommand_halt]
  rfl

/-! ## Units A and B: the group counter -/

/-- `q` with the operation `code` next and `GRP = g`. -/
def Seq.atG (q : Seq) (code : Byte) (g : Nat) : Seq := { q with uir := code, grp := BitVec.ofNat 5 g }

theorem State.group_atG (s : State) (h : Quint) (u : Units) (q : Seq) (code : Byte) {g : Nat} (hg : g < 20) :
    (s.inCommand h u (q.atG code g)).group = g := by
  show (BitVec.ofNat 5 g).toNat = g
  rw [BitVec.toNat_ofNat, Nat.mod_eq_of_lt (by omega)]

/-- The stage in an operation's two low bits (R73). -/
theorem encode_stage {g : Nat} (hg : g < 20) :
    0xA8 + BitVec.ofNat 8 (g / 5) = encode (.vaAddk (BitVec.ofNat 2 (g / 5))) ∧
      0xB4 + BitVec.ofNat 8 (g / 5) = encode (.vbRnds4 (BitVec.ofNat 2 (g / 5))) ∧
      (BitVec.ofNat 2 (g / 5)).toNat = g / 5 := by
  interval_cases g <;> decide

/-! ## Unit A (R193) -/

/-- The position before load `g` of unit A; after the last one, group 0. -/
def Seq.loadAtA (q : Seq) (g : Nat) : Seq := if g < 4 then q.atG 0xA0 g else q.startGroupA 0

/-- The position before group `g` of unit A; after the last one, VA.ACC. -/
def Seq.groupAtA (q : Seq) (g : Nat) : Seq := if g < 20 then q.startGroupA g else q.atG 0xA7 19

theorem State.onUnitA_inCommand {s : State} {h : Quint} {u : Units} {q : Seq} (hA : s.env.hasA = true)
    (f : State → Out) : (s.inCommand h u q).onUnitA f = f (s.inCommand h u q) := if_pos hA

/-- A micro-operation of group `g` that changes the registers of unit A by `f`. -/
theorem Steps.unitA {s : State} {h : Quint} {u : Units} {q : Seq} {code : Byte} {g : Nat} (i : Instr)
    (f : Nat → UnitA → UnitA) (hA : s.env.hasA = true) (hg : g < 20) (hi : i.isCommand = false) (hc : code = encode i)
    (he : ∀ s, exec i s = s.onUnitA fun s => .next (s.mapA (f s.group))) :
    Steps 1 (s.inCommand h u (q.atG code g)) (advance i (s.inCommand h { u with va := f g u.va } (q.atG code g))) := by
  refine Steps.inCommand i hi hc ((he _).trans ?_)
  rw [State.onUnitA_inCommand hA, State.group_atG _ _ _ _ _ hg]
  rfl

/-- VA.LDBE loads the next vector (R184). -/
theorem steps_loadA {s : State} {h : Quint} {u : Units} {q : Seq} {bk : List Byte} {n g : Nat}
    (hA : s.env.hasA = true) (hr : (s.inCommand h u q).ReadsTo bk n) (hg : g < 4) (hn : 16 * g + 16 ≤ n) :
    Steps 1 (s.inCommand h { u with va := UnitA.loaded h bk u.va g } (q.loadAtA g))
      (s.inCommand h { u with va := UnitA.loaded h bk u.va (g + 1) } (q.loadAtA (g + 1))) := by
  have hr' : (s.inCommand h { u with va := UnitA.loaded h bk u.va g } (q.atG 0xA0 g)).ReadsTo bk n := hr
  have he : exec .vaLdbe (s.inCommand h { u with va := UnitA.loaded h bk u.va g } (q.atG 0xA0 g)) =
      .next (s.inCommand h { u with va := UnitA.loaded h bk u.va (g + 1) } (q.atG 0xA0 g)) := by
    show execVaLdbe _ = _
    rw [execVaLdbe, State.onUnitA_inCommand hA, State.group_atG _ _ _ _ _ (by omega), if_pos (by omega),
      hr'.blockVec hn, UnitA.loaded_succ]
    rfl
  have next : advance .vaLdbe (s.inCommand h { u with va := UnitA.loaded h bk u.va (g + 1) } (q.atG 0xA0 g)) =
      s.inCommand h { u with va := UnitA.loaded h bk u.va (g + 1) } (q.loadAtA (g + 1)) := by
    interval_cases g <;> rfl
  rw [show q.loadAtA g = q.atG 0xA0 g from if_pos hg, ← next]
  exact Steps.inCommand .vaLdbe rfl rfl he

/-- The four-round operation of a group (R189 to R191, R193). -/
theorem exists_roundOpA (g : Nat) :
    ∃ i, Instr.isCommand i = false ∧ roundOpA g = encode i ∧
      (∀ s, exec i s = s.onUnitA fun s => .next (s.mapA (UnitA.fourRounds (groupStageA g)))) ∧
      ∀ s, advance i s = s.afterGroupA := by
  have h : groupStageA g = 0 ∨ groupStageA g = 1 ∨ groupStageA g = 2 := by
    unfold groupStageA; split_ifs <;> simp
  unfold roundOpA
  obtain h | h | h := h <;> rw [h]
  · exact ⟨.vaR4c, rfl, rfl, fun _ => rfl, fun _ => rfl⟩
  · exact ⟨.vaR4p, rfl, rfl, fun _ => rfl, fun _ => rfl⟩
  · exact ⟨.vaR4m, rfl, rfl, fun _ => rfl, fun _ => rfl⟩

/-- The end of a group leads to the next one, or to VA.ACC (R193). -/
theorem State.afterGroupA_atG (s : State) (h : Quint) (u : Units) (q : Seq) (code : Byte) {g : Nat} (hg : g < 20) :
    (s.inCommand h u (q.atG code g)).afterGroupA = s.inCommand h u (q.groupAtA (g + 1)) := by
  rw [State.afterGroupA, State.group_atG _ _ _ _ _ hg, Seq.groupAtA]
  split_ifs with h1 h2 h2
  · rfl
  · omega
  · omega
  · rw [show g = 19 by omega]; rfl

/-- The rounds of a group, from VA.ADDK on (R187 to R191). -/
theorem steps_roundsA {s : State} {h : Quint} {u : Units} {q : Seq} {g : Nat} (hA : s.env.hasA = true) (hg : g < 20) :
    Steps 3 (s.inCommand h u (q.atG (0xA8 + BitVec.ofNat 8 (g / 5)) g))
      (s.inCommand h { u with va := ((u.va.addK (g / 5) g).hRotate).fourRounds (groupStageA g) }
        (q.groupAtA (g + 1))) := by
  obtain ⟨hk, _, hs⟩ := encode_stage hg
  have add : Steps 1 (s.inCommand h u (q.atG (0xA8 + BitVec.ofNat 8 (g / 5)) g))
      (s.inCommand h { u with va := u.va.addK (g / 5) g } (q.atG 0xA3 g)) :=
    Steps.unitA (.vaAddk (BitVec.ofNat 2 (g / 5))) (UnitA.addK (g / 5)) hA hg rfl hk fun s => by
      show execVaAddk _ s = _
      rw [execVaAddk, hs]
  have rot : Steps 1 (s.inCommand h { u with va := u.va.addK (g / 5) g } (q.atG 0xA3 g))
      (s.inCommand h { u with va := (u.va.addK (g / 5) g).hRotate } (q.atG (roundOpA g) g)) := by
    have key := Steps.unitA (s := s) (h := h) (u := { u with va := u.va.addK (g / 5) g }) (q := q) .vaH
      (fun _ => UnitA.hRotate) hA hg rfl rfl fun _ => rfl
    rwa [show advance .vaH _ = State.goTo _ (roundOpA _) from rfl, State.group_atG _ _ _ _ _ hg] at key
  obtain ⟨i, hi, hc, he, ha⟩ := exists_roundOpA g
  have four := Steps.unitA (s := s) (h := h) (u := { u with va := (u.va.addK (g / 5) g).hRotate }) (q := q) i
    (fun _ => UnitA.fourRounds (groupStageA g)) hA hg hi hc he
  rw [ha, State.afterGroupA_atG _ _ _ _ _ hg] at four
  exact (add.trans rot).trans four

/-- The micro-operations of group `g` (R193). -/
theorem steps_groupA {s : State} {h : Quint} {u : Units} {q : Seq} {g : Nat} (hA : s.env.hasA = true) (hg : g < 20) :
    Steps (if 4 ≤ g then 5 else 3) (s.inCommand h u (q.groupAtA g))
      (s.inCommand h { u with va := u.va.group g } (q.groupAtA (g + 1))) := by
  rw [show q.groupAtA g = q.startGroupA g from if_pos hg]
  unfold UnitA.group Seq.startGroupA
  by_cases h4 : 4 ≤ g
  · simp only [if_pos h4]
    have su0 : Steps 1 (s.inCommand h u (q.atG 0xA1 g)) (s.inCommand h { u with va := u.va.su0 g } (q.atG 0xA2 g)) :=
      Steps.unitA .vaSu0 UnitA.su0 hA hg rfl rfl fun _ => rfl
    have su1 : Steps 1 (s.inCommand h { u with va := u.va.su0 g } (q.atG 0xA2 g))
        (s.inCommand h { u with va := (u.va.su0 g).su1 g } (q.atG (0xA8 + BitVec.ofNat 8 (g / 5)) g)) := by
      have key := Steps.unitA (s := s) (h := h) (u := { u with va := u.va.su0 g }) (q := q) .vaSu1 UnitA.su1 hA hg rfl
        rfl fun _ => rfl
      rwa [show advance .vaSu1 _ = State.goTo _ (0xA8 + BitVec.ofNat 8 (State.group _ / 5)) from rfl,
        State.group_atG _ _ _ _ _ hg] at key
    exact (su0.trans su1).trans (steps_roundsA hA hg)
  · simp only [if_neg h4]
    exact steps_roundsA hA hg

/-- Unit A on a block: `H` becomes its compression (R193). -/
theorem steps_unitA {s : State} {h : Quint} {u : Units} {q : Seq} {bk : List Byte} (hA : s.env.hasA = true)
    (hbk : (s.inCommand h u q).BlockIs bk) (hq : q.uir = 0xAC) :
    ∃ a, Steps 98 (s.inCommand h u q)
      (s.inCommand (compress h bk) { u with va := a } (q.atG 0xA7 19)).afterBlock := by
  have init : Steps 1 (s.inCommand h u q) (s.inCommand h { u with va := UnitA.loaded h bk u.va 0 } (q.loadAtA 0)) :=
    Steps.inCommand .vaInit rfl hq (State.onUnitA_inCommand hA fun s => .next (s.mapA (UnitA.load s.ctx.h)))
  have loads := Steps.loop (c := 1) (n := 4)
    (f := fun g => s.inCommand h { u with va := UnitA.loaded h bk u.va g } (q.loadAtA g))
    fun g hg => steps_loadA hA hbk.readsTo hg (by omega)
  have groups (n : Nat) (hn : n ≤ 20) : Steps (3 * n + 2 * (n - 4))
      (s.inCommand h { u with va := UnitA.afterGroups h bk u.va 0 } (q.groupAtA 0))
      (s.inCommand h { u with va := UnitA.afterGroups h bk u.va n } (q.groupAtA n)) := by
    induction n with
    | zero => rfl
    | succ n ih =>
      have key := (ih (by omega)).trans (steps_groupA hA (by omega))
      rw [← UnitA.afterGroups_succ] at key
      convert key using 1
      split_ifs <;> omega
  have acc : Steps 1 (s.inCommand h { u with va := UnitA.afterGroups h bk u.va 20 } (q.groupAtA 20))
      (s.inCommand (compress h bk) { u with va := UnitA.afterGroups h bk u.va 20 } (q.atG 0xA7 19)).afterBlock := by
    refine Steps.inCommand .vaAcc rfl rfl ?_
    show execVaAcc _ = _
    rw [execVaAcc, State.onUnitA_inCommand hA, ← UnitA.accumulate_afterGroups h bk u.va]
    rfl
  exact ⟨_, ((init.trans loads).trans (groups 20 le_rfl)).trans acc⟩

/-- Unit A on a block with a byte that has no value. -/
theorem ends_unitA {s : State} {h : Quint} {u : Units} {q : Seq} {bk : List Byte} {o : Nat} {e : Halt}
    (hA : s.env.hasA = true) (hr : (s.inCommand h u q).ReadsTo bk o) (ho : o < 64)
    (he : (s.inCommand h u q).blockByte o = e.res) (hq : q.uir = 0xAC) : Ends (s.inCommand h u q) (s.halt q.cmd e) := by
  have init : Steps 1 (s.inCommand h u q) (s.inCommand h { u with va := UnitA.loaded h bk u.va 0 } (q.loadAtA 0)) :=
    Steps.inCommand .vaInit rfl hq (State.onUnitA_inCommand hA fun s => .next (s.mapA (UnitA.load s.ctx.h)))
  have loads := Steps.loop (c := 1) (n := o / 16)
    (f := fun g => s.inCommand h { u with va := UnitA.loaded h bk u.va g } (q.loadAtA g))
    fun g hg => steps_loadA hA hr (by omega) (by omega)
  refine (init.trans loads).ends ?_
  rw [show q.loadAtA (o / 16) = q.atG 0xA0 (o / 16) from if_pos (by omega)]
  refine Ends.inCommand_halt .vaLdbe rfl rfl ?_
  have hr' : (s.inCommand h { u with va := UnitA.loaded h bk u.va (o / 16) } (q.atG 0xA0 (o / 16))).ReadsTo bk o := hr
  show execVaLdbe _ = _
  rw [execVaLdbe, State.onUnitA_inCommand hA, State.group_atG _ _ _ _ _ (by omega), if_pos (by omega),
    hr'.blockVec_halt he (by omega) (by omega), Halt.map_res, State.finish_halt, State.inCommand_halt]
  rfl

/-! ## Unit B (R204) -/

/-- The position before load `g` of unit B; after the last one, group 0. -/
def Seq.loadAtB (q : Seq) (g : Nat) : Seq := if g < 4 then q.atG 0xB0 g else q.startGroupB 0

/-- The position before group `g` of unit B; after the last one, VB.ACC. -/
def Seq.groupAtB (q : Seq) (g : Nat) : Seq := if g < 20 then q.startGroupB g else q.atG 0xBA 19

theorem State.onUnitB_inCommand {s : State} {h : Quint} {u : Units} {q : Seq} (hB : s.env.hasB = true)
    (f : State → Out) : (s.inCommand h u q).onUnitB f = f (s.inCommand h u q) := if_pos hB

/-- A micro-operation of group `g` that changes the registers of unit B by `f`. -/
theorem Steps.unitB {s : State} {h : Quint} {u : Units} {q : Seq} {code : Byte} {g : Nat} (i : Instr)
    (f : Quint → Nat → UnitB → UnitB) (hB : s.env.hasB = true) (hg : g < 20) (hi : i.isCommand = false)
    (hc : code = encode i) (he : ∀ s, exec i s = s.onUnitB fun s => .next (s.mapB (f s.ctx.h s.group))) :
    Steps 1 (s.inCommand h u (q.atG code g))
      (advance i (s.inCommand h { u with vb := f h g u.vb } (q.atG code g))) := by
  refine Steps.inCommand i hi hc ((he _).trans ?_)
  rw [State.onUnitB_inCommand hB, State.group_atG _ _ _ _ _ hg]
  rfl

/-- VB.LDBE loads the next vector (R196). -/
theorem steps_loadB {s : State} {h : Quint} {u : Units} {q : Seq} {bk : List Byte} {n g : Nat}
    (hB : s.env.hasB = true) (hr : (s.inCommand h u q).ReadsTo bk n) (hg : g < 4) (hn : 16 * g + 16 ≤ n) :
    Steps 1 (s.inCommand h { u with vb := UnitB.loaded h bk u.vb g } (q.loadAtB g))
      (s.inCommand h { u with vb := UnitB.loaded h bk u.vb (g + 1) } (q.loadAtB (g + 1))) := by
  have hr' : (s.inCommand h { u with vb := UnitB.loaded h bk u.vb g } (q.atG 0xB0 g)).ReadsTo bk n := hr
  have he : exec .vbLdbe (s.inCommand h { u with vb := UnitB.loaded h bk u.vb g } (q.atG 0xB0 g)) =
      .next (s.inCommand h { u with vb := UnitB.loaded h bk u.vb (g + 1) } (q.atG 0xB0 g)) := by
    show execVbLdbe _ = _
    rw [execVbLdbe, State.onUnitB_inCommand hB, State.group_atG _ _ _ _ _ (by omega), if_pos (by omega),
      hr'.blockVec hn, UnitB.loaded_succ]
    rfl
  have next : advance .vbLdbe (s.inCommand h { u with vb := UnitB.loaded h bk u.vb (g + 1) } (q.atG 0xB0 g)) =
      s.inCommand h { u with vb := UnitB.loaded h bk u.vb (g + 1) } (q.loadAtB (g + 1)) := by
    interval_cases g <;> rfl
  rw [show q.loadAtB g = q.atG 0xB0 g from if_pos hg, ← next]
  exact Steps.inCommand .vbLdbe rfl rfl he

/-- The end of a group leads to the next one, or to VB.ACC (R204). -/
theorem State.afterGroupB_atG (s : State) (h : Quint) (u : Units) (q : Seq) (code : Byte) {g : Nat} (hg : g < 20) :
    (s.inCommand h u (q.atG code g)).afterGroupB = s.inCommand h u (q.groupAtB (g + 1)) := by
  rw [State.afterGroupB, State.group_atG _ _ _ _ _ hg, Seq.groupAtB]
  split_ifs with h1 h2 h2
  · rfl
  · omega
  · omega
  · rw [show g = 19 by omega]; rfl

/-- VB.EADD in group 0, VB.NEXTE in the others (R200, R201). -/
theorem steps_eOpB {s : State} {h : Quint} {u : Units} {q : Seq} {g : Nat} (hB : s.env.hasB = true) (hg : g < 20) :
    Steps 1 (s.inCommand h u (q.atG (eOpB g) g))
      (s.inCommand h { u with vb := if g = 0 then u.vb.eAdd h.e else u.vb.nextE g }
        (q.atG (0xB4 + BitVec.ofNat 8 (g / 5)) g)) := by
  unfold eOpB
  by_cases h0 : g = 0
  · subst h0
    exact Steps.unitB .vbEadd (fun h _ => UnitB.eAdd h.e) hB hg rfl rfl fun _ => rfl
  · simp only [if_neg h0]
    have key := Steps.unitB (s := s) (h := h) (u := u) (q := q) .vbNexte (fun _ => UnitB.nextE) hB hg rfl rfl
      fun _ => rfl
    rwa [show advance .vbNexte _ = State.goTo _ (0xB4 + BitVec.ofNat 8 (State.group _ / 5)) from rfl,
      State.group_atG _ _ _ _ _ hg] at key

/-- The rounds of a group, from VB.EADD or VB.NEXTE on (R200 to R202). -/
theorem steps_roundsB {s : State} {h : Quint} {u : Units} {q : Seq} {g : Nat} (hB : s.env.hasB = true) (hg : g < 20) :
    Steps 2 (s.inCommand h u (q.atG (eOpB g) g))
      (s.inCommand h { u with vb := (if g = 0 then u.vb.eAdd h.e else u.vb.nextE g).fourRounds (g / 5) }
        (q.groupAtB (g + 1))) := by
  obtain ⟨_, hk, hs⟩ := encode_stage hg
  have four := Steps.unitB (s := s) (h := h) (q := q)
    (u := { u with vb := if g = 0 then u.vb.eAdd h.e else u.vb.nextE g }) (.vbRnds4 (BitVec.ofNat 2 (g / 5)))
    (fun _ _ => UnitB.fourRounds (g / 5)) hB hg rfl hk fun s => by
      show execVbRnds4 _ s = _
      rw [execVbRnds4, hs]
  rw [show advance (.vbRnds4 _) _ = State.afterGroupB _ from rfl, State.afterGroupB_atG _ _ _ _ _ hg] at four
  exact (steps_eOpB hB hg).trans four

/-- The micro-operations of group `g` (R204). -/
theorem steps_groupB {s : State} {h : Quint} {u : Units} {q : Seq} {g : Nat} (hB : s.env.hasB = true) (hg : g < 20) :
    Steps (if 4 ≤ g then 5 else 2) (s.inCommand h u (q.groupAtB g))
      (s.inCommand h { u with vb := u.vb.group h g } (q.groupAtB (g + 1))) := by
  rw [show q.groupAtB g = q.startGroupB g from if_pos hg]
  unfold UnitB.group Seq.startGroupB
  by_cases h4 : 4 ≤ g
  · simp only [if_pos h4]
    have msg1 : Steps 1 (s.inCommand h u (q.atG 0xB1 g)) (s.inCommand h { u with vb := u.vb.msg1 g } (q.atG 0xB2 g)) :=
      Steps.unitB .vbMsg1 (fun _ => UnitB.msg1) hB hg rfl rfl fun _ => rfl
    have xor : Steps 1 (s.inCommand h { u with vb := u.vb.msg1 g } (q.atG 0xB2 g))
        (s.inCommand h { u with vb := (u.vb.msg1 g).xorT g } (q.atG 0xB3 g)) :=
      Steps.unitB .vbXor (fun _ => UnitB.xorT) hB hg rfl rfl fun _ => rfl
    have msg2 : Steps 1 (s.inCommand h { u with vb := (u.vb.msg1 g).xorT g } (q.atG 0xB3 g))
        (s.inCommand h { u with vb := ((u.vb.msg1 g).xorT g).msg2 g } (q.atG (eOpB g) g)) := by
      have key := Steps.unitB (s := s) (h := h) (u := { u with vb := (u.vb.msg1 g).xorT g }) (q := q) .vbMsg2
        (fun _ => UnitB.msg2) hB hg rfl rfl fun _ => rfl
      rwa [show advance .vbMsg2 _ = State.goTo _ (eOpB (State.group _)) from rfl, State.group_atG _ _ _ _ _ hg] at key
    exact ((msg1.trans xor).trans msg2).trans (steps_roundsB hB hg)
  · simp only [if_neg h4]
    exact steps_roundsB hB hg

/-- Unit B on a block: `H` becomes its compression (R204). -/
theorem steps_unitB {s : State} {h : Quint} {u : Units} {q : Seq} {bk : List Byte} (hB : s.env.hasB = true)
    (hbk : (s.inCommand h u q).BlockIs bk) (hq : q.uir = 0xBB) :
    ∃ b, Steps 94 (s.inCommand h u q)
      (s.inCommand (compress h bk) { u with vb := b } (q.atG 0xBA 19)).afterBlock := by
  have init : Steps 1 (s.inCommand h u q) (s.inCommand h { u with vb := UnitB.loaded h bk u.vb 0 } (q.loadAtB 0)) :=
    Steps.inCommand .vbInit rfl hq (State.onUnitB_inCommand hB fun s => .next (s.mapB (UnitB.load s.ctx.h)))
  have loads := Steps.loop (c := 1) (n := 4)
    (f := fun g => s.inCommand h { u with vb := UnitB.loaded h bk u.vb g } (q.loadAtB g))
    fun g hg => steps_loadB hB hbk.readsTo hg (by omega)
  have groups (n : Nat) (hn : n ≤ 20) : Steps (2 * n + 3 * (n - 4))
      (s.inCommand h { u with vb := UnitB.afterGroups h bk u.vb 0 } (q.groupAtB 0))
      (s.inCommand h { u with vb := UnitB.afterGroups h bk u.vb n } (q.groupAtB n)) := by
    induction n with
    | zero => rfl
    | succ n ih =>
      have key := (ih (by omega)).trans (steps_groupB hB (by omega))
      rw [← UnitB.afterGroups_succ] at key
      convert key using 1
      split_ifs <;> omega
  have acc : Steps 1 (s.inCommand h { u with vb := UnitB.afterGroups h bk u.vb 20 } (q.groupAtB 20))
      (s.inCommand (compress h bk) { u with vb := UnitB.afterGroups h bk u.vb 20 } (q.atG 0xBA 19)).afterBlock := by
    refine Steps.inCommand .vbAcc rfl rfl ?_
    show execVbAcc _ = _
    rw [execVbAcc, State.onUnitB_inCommand hB, ← UnitB.accumulate_afterGroups h bk u.vb]
    rfl
  exact ⟨_, ((init.trans loads).trans (groups 20 le_rfl)).trans acc⟩

/-- Unit B on a block with a byte that has no value. -/
theorem ends_unitB {s : State} {h : Quint} {u : Units} {q : Seq} {bk : List Byte} {o : Nat} {e : Halt}
    (hB : s.env.hasB = true) (hr : (s.inCommand h u q).ReadsTo bk o) (ho : o < 64)
    (he : (s.inCommand h u q).blockByte o = e.res) (hq : q.uir = 0xBB) : Ends (s.inCommand h u q) (s.halt q.cmd e) := by
  have init : Steps 1 (s.inCommand h u q) (s.inCommand h { u with vb := UnitB.loaded h bk u.vb 0 } (q.loadAtB 0)) :=
    Steps.inCommand .vbInit rfl hq (State.onUnitB_inCommand hB fun s => .next (s.mapB (UnitB.load s.ctx.h)))
  have loads := Steps.loop (c := 1) (n := o / 16)
    (f := fun g => s.inCommand h { u with vb := UnitB.loaded h bk u.vb g } (q.loadAtB g))
    fun g hg => steps_loadB hB hr (by omega) (by omega)
  refine (init.trans loads).ends ?_
  rw [show q.loadAtB (o / 16) = q.atG 0xB0 (o / 16) from if_pos (by omega)]
  refine Ends.inCommand_halt .vbLdbe rfl rfl ?_
  have hr' : (s.inCommand h { u with vb := UnitB.loaded h bk u.vb (o / 16) } (q.atG 0xB0 (o / 16))).ReadsTo bk o := hr
  show execVbLdbe _ = _
  rw [execVbLdbe, State.onUnitB_inCommand hB, State.group_atG _ _ _ _ _ (by omega), if_pos (by omega),
    hr'.blockVec_halt he (by omega) (by omega), Halt.map_res, State.finish_halt, State.inCommand_halt]
  rfl

/-! ## A block, whichever unit is selected -/

/-- The selected unit on a block. -/
theorem steps_block {s : State} {h : Quint} {u : Units} {q : Seq} {bk : List Byte} {b : Backend}
    (hp : s.env.present b = true) (hbk : (s.inCommand h u q).BlockIs bk) :
    ∃ n u' q', Steps n (s.inCommand h u (q.startBlock b)) (s.inCommand (compress h bk) u' q').afterBlock ∧
      u'.scratch = u.scratch ∧ q'.cmd = q.cmd ∧ q'.fb = q.fb ∧ q'.blk = q.blk := by
  have hbk' : (s.inCommand h u (q.startBlock b)).BlockIs bk := hbk
  cases b with
  | generic => obtain ⟨r, w, hs⟩ := steps_unitG hbk' rfl; exact ⟨_, _, _, hs, rfl, rfl, rfl, rfl⟩
  | accelA => obtain ⟨a, hs⟩ := steps_unitA hp hbk' rfl; exact ⟨_, _, _, hs, rfl, rfl, rfl, rfl⟩
  | accelB => obtain ⟨b, hs⟩ := steps_unitB hp hbk' rfl; exact ⟨_, _, _, hs, rfl, rfl, rfl, rfl⟩

/-- The selected unit on a block with a byte that has no value. -/
theorem ends_block {s : State} {h : Quint} {u : Units} {q : Seq} {bk : List Byte} {b : Backend} {o : Nat} {e : Halt}
    (hp : s.env.present b = true) (hr : (s.inCommand h u q).ReadsTo bk o) (ho : o < 64)
    (he : (s.inCommand h u q).blockByte o = e.res) : Ends (s.inCommand h u (q.startBlock b)) (s.halt q.cmd e) := by
  have hr' : (s.inCommand h u (q.startBlock b)).ReadsTo bk o := hr
  cases b with
  | generic => exact ends_unitG hr' ho he rfl
  | accelA => exact ends_unitA hp hr' ho he rfl
  | accelB => exact ends_unitB hp hr' ho he rfl

/-! ## Full blocks (R141) -/

/-- A read that has a value has one at every byte, and is as long as asked for (R52). -/
theorem State.readByte_of_memRead {s : State} {a n : Nat} {bs : List Byte} (h : s.memRead a n = .ok bs) :
    bs.length = n ∧ ∀ o, o < n → s.readByte (a + o) = .ok (byteAt bs o) := by
  induction n generalizing a bs with
  | zero => cases h; exact ⟨rfl, fun o ho => absurd ho (Nat.not_lt_zero o)⟩
  | succ n ih =>
    obtain ⟨b, hb, h⟩ := Res.bind_eq_ok.mp h
    obtain ⟨bs', hbs, rfl⟩ := Res.map_eq_ok.mp h
    obtain ⟨hlen, hall⟩ := ih hbs
    refine ⟨by simp [hlen], fun o ho => ?_⟩
    cases o with
    | zero => exact hb
    | succ o => rw [Nat.add_comm o 1, ← Nat.add_assoc, hall o (by omega), Nat.add_comm]; rfl

/-- A read without a value stops at its first byte without one (R52). -/
theorem State.readByte_of_memRead_halt {s : State} {a n : Nat} {e : Halt} (h : s.memRead a n = e.res) :
    ∃ o bs, o < n ∧ (∀ i, i < o → s.readByte (a + i) = .ok (byteAt bs i)) ∧ s.readByte (a + o) = e.res := by
  induction n generalizing a with
  | zero => cases e <;> cases h
  | succ n ih =>
    rw [State.memRead] at h
    obtain ⟨b, hb⟩ | ⟨e', he⟩ := (s.readByte a).ok_or_halt
    · rw [hb, Res.bind_ok] at h
      obtain ⟨bs, hbs⟩ | ⟨e', he⟩ := (s.memRead (a + 1) n).ok_or_halt
      · rw [hbs] at h; cases e <;> cases h
      · rw [he, Halt.map_res] at h
        obtain ⟨o, bs, ho, hall, hbad⟩ := ih (he.trans (by cases e <;> cases e' <;> cases h <;> rfl))
        refine ⟨o + 1, b :: bs, by omega, fun i hi => ?_, by rw [Nat.add_comm o 1, ← Nat.add_assoc, hbad]⟩
        cases i with
        | zero => exact hb
        | succ i => rw [Nat.add_comm i 1, ← Nat.add_assoc, hall i (by omega), Nat.add_comm]; rfl
    · rw [he, Halt.bind_res] at h
      exact ⟨0, [], by omega, fun i hi => absurd hi (Nat.not_lt_zero i),
        he.trans (by cases e <;> cases e' <;> cases h <;> rfl)⟩

/-- Reading host memory looks at the parameters and host memory alone. -/
theorem State.memRead_congr {s t : State} (he : t.env = s.env) (hm : t.mem = s.mem) (a n : Nat) :
    t.memRead a n = s.memRead a n := by
  induction n generalizing a with
  | zero => rfl
  | succ n ih => rw [State.memRead, State.memRead, ih, State.readByte, State.readByte, he, hm]

/-- The number of full blocks of a command with byte `cmd` (R141, R255). -/
def State.blocksOf (s : State) (cmd : Byte) : Nat := if cmd = hashCode then s.len / 64 else s.len

theorem State.blocksOf_lt (s : State) (cmd : Byte) : s.blocksOf cmd < 2 ^ 64 := by
  have : s.len < 2 ^ 64 := s.ctx.opLen.isLt
  unfold State.blocksOf
  split_ifs <;> omega

theorem State.blockCount_inCommand (s : State) (h : Quint) (u : Units) (q : Seq) :
    (s.inCommand h u q).blockCount = s.blocksOf q.cmd := by
  by_cases hq : q.cmd = hashCode <;> simp [State.blockCount, State.inHash, State.blocksOf, hq]

theorem State.absorb_succ_ok {s : State} {p : Nat} {bk : List Byte} (hbk : s.memRead p 64 = .ok bk) (h : Quint)
    (n : Nat) : s.absorb p h (n + 1) = s.absorb (p + 64) (compress h bk) n := by
  rw [State.absorb, hbk, Res.bind_ok, compressWith_eq_compress]

theorem State.absorb_succ_halt {s : State} {p : Nat} {e : Halt} (he : s.memRead p 64 = e.res) (h : Quint) (n : Nat) :
    s.absorb p h (n + 1) = e.res := by
  rw [State.absorb, he, Halt.bind_res]

/-- After a full block: the next one, or what comes after the last. -/
theorem State.afterBlock_full {s : State} {h : Quint} {u : Units} {q : Seq} (hf : q.fb = 0) :
    (s.inCommand h u q).afterBlock =
      if q.blk.toNat + 1 < s.blocksOf q.cmd then
        s.inCommand h u (({ q with blk := q.blk + 1 } : Seq).startBlock s.ctx.bsel)
      else (s.inCommand h u q).afterBlocks := by
  rw [← State.blockCount_inCommand s h u q, State.afterBlock]
  exact if_pos hf

/-- A full block is read and compressed, or the command ends on a read without a value (R141, R287). -/
theorem ends_fullBlock {s : State} {h : Quint} {u : Units} {q : Seq} {o : Out} (hp : s.env.present s.ctx.bsel = true)
    (hf : q.fb = 0)
    (hok : ∀ bk, s.memRead (s.ptr + 64 * q.blk.toNat) 64 = .ok bk → ∀ u' q', q'.cmd = q.cmd → q'.fb = 0 →
      q'.blk = q.blk → Ends (s.inCommand (compress h bk) u' q').afterBlock o)
    (hbad : ∀ e : Halt, s.memRead (s.ptr + 64 * q.blk.toNat) 64 = e.res → o = s.halt q.cmd e) :
    Ends (s.inCommand h u (q.startBlock s.ctx.bsel)) o := by
  have source (i : Nat) : (s.inCommand h u q).blockByte i = s.readByte (s.ptr + 64 * q.blk.toNat + i) := if_pos hf
  obtain ⟨bk, hbk⟩ | ⟨e, he⟩ := (s.memRead (s.ptr + 64 * q.blk.toNat) 64).ok_or_halt
  · obtain ⟨hlen, hall⟩ := State.readByte_of_memRead hbk
    have hblock : (s.inCommand h u q).BlockIs bk := ⟨hlen, fun i hi => by rw [source, hall i hi]⟩
    obtain ⟨n, u', q', hs, _, hcmd, hfb, hblk⟩ := steps_block hp hblock
    exact hs.ends (hok bk hbk u' q' hcmd (hfb.trans hf) hblk)
  · obtain ⟨i, bs, hi, hall, hbyte⟩ := State.readByte_of_memRead_halt he
    rw [hbad e he]
    exact ends_block hp (fun j hj => by rw [source, hall j hj]) hi (by rw [source, hbyte])

/-- The full blocks from block `q.blk` on, `m + 1` of them: they are absorbed, or the command ends on a read without a
value (R141, R287). -/
theorem ends_blocks {s : State} {m : Nat} {h : Quint} {u : Units} {q : Seq} {o : Out}
    (hp : s.env.present s.ctx.bsel = true) (hf : q.fb = 0)
    (hm : q.blk.toNat + (m + 1) = s.blocksOf q.cmd)
    (hok : ∀ h', s.absorb (s.ptr + 64 * q.blk.toNat) h (m + 1) = .ok h' →
      ∀ u' q', q'.cmd = q.cmd → Ends (s.inCommand h' u' q').afterBlocks o)
    (hbad : ∀ e : Halt, s.absorb (s.ptr + 64 * q.blk.toNat) h (m + 1) = e.res → o = s.halt q.cmd e) :
    Ends (s.inCommand h u (q.startBlock s.ctx.bsel)) o := by
  induction m generalizing h u q with
  | zero =>
    refine ends_fullBlock hp hf (fun bk hbk u' q' hc hf' hb => ?_) fun e he => hbad e (State.absorb_succ_halt he h _)
    rw [State.afterBlock_full hf', if_neg (by rw [hb, hc]; omega)]
    exact hok _ (State.absorb_succ_ok hbk h 0) u' q' hc
  | succ m ih =>
    refine ends_fullBlock hp hf (fun bk hbk u' q' hc hf' hb => ?_) fun e he => hbad e (State.absorb_succ_halt he h _)
    rw [State.afterBlock_full hf', if_pos (by rw [hb, hc]; omega), hb]
    rw [State.absorb_succ_ok hbk] at hok hbad
    have hlt := s.blocksOf_lt q.cmd
    have hnext : (q.blk + 1).toNat = q.blk.toNat + 1 := by
      rw [BitVec.toNat_add]
      exact Nat.mod_eq_of_lt (show q.blk.toNat + 1 < 2 ^ 64 by omega)
    have haddr : s.ptr + 64 * (q.blk + 1).toNat = s.ptr + 64 * q.blk.toNat + 64 := by omega
    refine ih (q := { q' with blk := q.blk + 1 }) hf' ?_ ?_ ?_
    · show (q.blk + 1).toNat + (m + 1) = s.blocksOf q'.cmd
      rw [hc, hnext, ← hm]; omega
    · exact fun h' hh u'' q'' hc' => hok h' (haddr ▸ hh) u'' q'' (hc'.trans hc)
    · exact fun e he => (hbad e (haddr ▸ he)).trans (by rw [hc])

/-! ## Padding and the final blocks (R220 to R227) -/

/-- `q` with the operation `code` next. -/
def Seq.atOp (q : Seq) (code : Byte) : Seq := { q with uir := code }

/-- The address of the first trailing byte in a command with byte `cmd` (R255). -/
def State.tailAt (s : State) (cmd : Byte) : Nat := if cmd = hashCode then s.ptr + 64 * (s.len / 64) else s.ptr

/-- A micro-operation that writes SCRATCH right behind its front `l`. -/
theorem Steps.fill {s : State} {h : Quint} {u : Units} {q : Seq} {l bs : List Byte} (i : Instr)
    (hi : i.isCommand = false) (hq : q.uir = encode i) (hl : Fills u.scratch l) (hfit : l.length + bs.length ≤ 64)
    (he : exec i (s.inCommand h u q) = .next ((s.inCommand h u q).putScratch l.length bs)) :
    ∃ sc, Fills sc (l ++ bs) ∧ Steps 1 (s.inCommand h u q) (advance i (s.inCommand h { u with scratch := sc } q)) :=
  ⟨_, hl.putBytes bs hfit, Steps.inCommand i hi hq he⟩

@[simp] theorem State.memRead_inCommand (s : State) (h : Quint) (u : Units) (q : Seq) (a n : Nat) :
    (s.inCommand h u q).memRead a n = s.memRead a n :=
  State.memRead_congr (s := s) (t := s.inCommand h u q) rfl rfl a n

theorem exec_padCopy (s : State) (h : Quint) (u : Units) (q : Seq) :
    exec .padCopy (s.inCommand h u q) = (s.inCommand h u q).finish q.cmd
      ((s.memRead (s.tailAt q.cmd) (s.len % 64)).map fun t => (s.inCommand h u q).putScratch 0 t) := by
  rw [← State.memRead_inCommand s h u q]
  rfl

/-- PAD.COPY and PAD.MARK: SCRATCH begins with the tail and the marker byte (R222, R223). -/
theorem steps_padMark {s : State} {h : Quint} {u : Units} {q : Seq} {tail : List Byte} (hq : q.uir = 0xC0)
    (ht : s.memRead (s.tailAt q.cmd) (s.len % 64) = .ok tail) :
    ∃ sc, Fills sc (tail ++ [0x80]) ∧ Steps 2 (s.inCommand h u q)
      (s.inCommand h { u with scratch := sc } (q.atOp (if q.fb = 2 then 0xC5 else 0xC4))) := by
  obtain ⟨hlen, -⟩ := State.readByte_of_memRead ht
  obtain ⟨sc, hsc, copy⟩ := Steps.fill (s := s) (h := h) (u := u) (bs := tail) .padCopy rfl hq (Fills.nil _)
    (by rw [hlen, List.length_nil]; omega) (by rw [exec_padCopy, ht]; rfl)
  obtain ⟨sc', hsc', mark⟩ := Steps.fill (s := s) (h := h) (u := { u with scratch := sc }) (bs := [0x80])
    (q := q.atOp 0xC1) .padMark rfl rfl hsc (by simp [hlen]; omega) (by rw [List.nil_append, hlen]; rfl)
  exact ⟨sc', hsc', copy.trans mark⟩

/-- A tail without a value ends the command (R287). -/
theorem ends_padCopy {s : State} {h : Quint} {u : Units} {q : Seq} {e : Halt} (hq : q.uir = 0xC0)
    (ht : s.memRead (s.tailAt q.cmd) (s.len % 64) = e.res) : Ends (s.inCommand h u q) (s.halt q.cmd e) :=
  Ends.inCommand_halt .padCopy rfl hq
    (by rw [exec_padCopy, ht, Halt.map_res, State.finish_halt, State.inCommand_halt])

/-- SCRATCH, filled, is the current block while final blocks remain (R227). -/
theorem State.blockIs_of_fills {s : State} {h : Quint} {u : Units} {q : Seq} {bk : List Byte} (hf : q.fb ≠ 0)
    (hl : Fills u.scratch bk) (hlen : bk.length = 64) : (s.inCommand h u q).BlockIs bk :=
  ⟨hlen, fun o _ => by rw [← hl.toList_eq hlen]; exact if_neg hf⟩

/-- After the first of two final blocks the second one is padded, after the last one the phase is FINAL (R220, R227). -/
theorem State.afterBlock_final (s : State) (h : Quint) (u : Units) (q : Seq) :
    (q.fb = 2 → (s.inCommand h u q).afterBlock = s.inCommand h u (({ q with fb := 1 } : Seq).atOp 0xC6)) ∧
      (q.fb = 1 → (s.inCommand h u q).afterBlock = (s.inCommand h u q).afterFinal) := by
  unfold State.afterBlock
  refine ⟨fun hf => ?_, fun hf => ?_⟩
  · simp only [State.inCommand_seq, hf]
    rfl
  · simp only [State.inCommand_seq, hf]
    rfl

/-- PAD.LEN and the last final block, its first 56 bytes being in SCRATCH (R225, R227). -/
theorem steps_lastBlock {s : State} {h : Quint} {u : Units} {q : Seq} {l : List Byte}
    (hp : s.env.present s.ctx.bsel = true) (hf : q.fb = 1) (hl : Fills u.scratch l) (hlen : l.length = 56) :
    ∃ n u' q', Steps n (s.inCommand h u (q.atOp 0xC3))
      (s.inCommand (compress h (l ++ storeBE64 (mul8 s.len))) u' q').afterFinal ∧ q'.cmd = q.cmd := by
  obtain ⟨sc, hsc, len⟩ := Steps.fill (s := s) (h := h) (q := q.atOp 0xC3) (bs := storeBE64 (mul8 s.len)) .padLen rfl
    rfl hl (by simp [hlen, storeBE64]) (by rw [hlen]; rfl)
  have hblock : (s.inCommand h { u with scratch := sc } q).BlockIs (l ++ storeBE64 (mul8 s.len)) :=
    State.blockIs_of_fills (by simp [hf]) hsc (by simp [hlen, storeBE64])
  obtain ⟨n, u', q', block, -, hc, hf', -⟩ := steps_block hp hblock
  rw [(State.afterBlock_final _ _ _ _).2 (hf'.trans hf)] at block
  exact ⟨_, u', q', len.trans block, hc⟩

/-- One final block: the tail leaves room for the length (R221). -/
theorem steps_onePadBlock {s : State} {h : Quint} {u : Units} {q : Seq} {l : List Byte}
    (hp : s.env.present s.ctx.bsel = true) (hf : q.fb = 1) (hl : Fills u.scratch l)
    (hlen : l.length = s.len % 64 + 1) (hroom : l.length ≤ 56) :
    ∃ n u' q', Steps n (s.inCommand h u (q.atOp 0xC4))
      (s.inCommand (compress h (l ++ List.replicate (56 - l.length) 0 ++ storeBE64 (mul8 s.len))) u' q').afterFinal ∧
      q'.cmd = q.cmd := by
  obtain ⟨sc, hsc, zero⟩ := Steps.fill (s := s) (h := h) (q := q.atOp 0xC4) (bs := List.replicate (56 - l.length) 0)
    .padZero0 rfl rfl hl (by simp; omega) (by rw [hlen]; rfl)
  obtain ⟨n, u', q', last, hc⟩ := steps_lastBlock (h := h) (u := { u with scratch := sc }) hp hf hsc (by simp; omega)
  exact ⟨_, u', q', zero.trans last, hc⟩

/-- Two final blocks: the length does not fit beside the tail (R221). -/
theorem steps_twoPadBlocks {s : State} {h : Quint} {u : Units} {q : Seq} {l : List Byte}
    (hp : s.env.present s.ctx.bsel = true) (hf : q.fb = 2) (hl : Fills u.scratch l)
    (hlen : l.length = s.len % 64 + 1) :
    ∃ n u' q', Steps n (s.inCommand h u (q.atOp 0xC5))
      (s.inCommand (compress (compress h (l ++ List.replicate (64 - l.length) 0))
        (List.replicate 56 0 ++ storeBE64 (mul8 s.len))) u' q').afterFinal ∧ q'.cmd = q.cmd := by
  obtain ⟨sc, hsc, zero⟩ := Steps.fill (s := s) (h := h) (q := q.atOp 0xC5) (bs := List.replicate (64 - l.length) 0)
    .padZero1 rfl rfl hl (by simp; omega) (by rw [hlen]; rfl)
  have hblock : (s.inCommand h { u with scratch := sc } q).BlockIs (l ++ List.replicate (64 - l.length) 0) :=
    State.blockIs_of_fills (by simp [hf]) hsc (by simp; omega)
  obtain ⟨n, u1, q1, block, -, hc1, hf1, -⟩ := steps_block hp hblock
  rw [(State.afterBlock_final _ _ _ _).1 (hf1.trans hf)] at block
  generalize compress h (l ++ List.replicate (64 - l.length) 0) = h1 at block ⊢
  obtain ⟨sc2, hsc2, zero2⟩ := Steps.fill (s := s) (h := h1) (u := u1) (q := ({ q1 with fb := 1 } : Seq).atOp 0xC6)
    (bs := List.replicate 56 0) .padZero2 rfl rfl (Fills.nil _) (by simp) rfl
  obtain ⟨n2, u2, q2, last, hc2⟩ := steps_lastBlock (h := h1) (u := { u1 with scratch := sc2 })
    (q := { q1 with fb := 1 }) hp rfl hsc2 (by simp)
  exact ⟨_, u2, q2, ((zero.trans block).trans zero2).trans last, hc2.trans hc1⟩

/-- The padding sequence: the final blocks of the tail are compressed (R220, R221). -/
theorem steps_padding {s : State} {h : Quint} {u : Units} {q : Seq} {tail : List Byte}
    (hp : s.env.present s.ctx.bsel = true) (ht : s.memRead (s.tailAt q.cmd) (s.len % 64) = .ok tail) :
    ∃ n u' q', Steps n (s.inCommand h u (q.startPadding (s.len % 64)))
      (s.inCommand ((pad tail s.len).foldl compress h) u' q').afterFinal ∧ q'.cmd = q.cmd := by
  obtain ⟨hlen, -⟩ := State.readByte_of_memRead ht
  have hlen1 : (tail ++ [0x80]).length = tail.length + 1 := by simp
  obtain ⟨sc, hsc, mark⟩ := steps_padMark (s := s) (h := h) (u := u) (q := q.startPadding (s.len % 64)) rfl ht
  unfold pad
  by_cases hr : s.len % 64 + 1 ≤ 56
  · have hone : (q.startPadding (s.len % 64)).fb = 1 := if_pos hr
    rw [hone] at mark
    obtain ⟨n, u', q', blocks, hc⟩ := steps_onePadBlock (h := h) (u := { u with scratch := sc }) hp hone hsc
      (by omega) (by omega)
    rw [hlen1] at blocks
    rw [if_pos (by omega)]
    exact ⟨_, u', q', mark.trans blocks, hc⟩
  · have htwo : (q.startPadding (s.len % 64)).fb = 2 := if_neg hr
    rw [htwo] at mark
    obtain ⟨n, u', q', blocks, hc⟩ := steps_twoPadBlocks (h := h) (u := { u with scratch := sc }) hp htwo hsc (by omega)
    rw [hlen1] at blocks
    rw [if_neg (by omega)]
    exact ⟨_, u', q', mark.trans blocks, hc⟩

/-! ## The digest encoder (R248) -/

/-- The encoder by path `be` before digest word `k`. -/
def Seq.wordAt (q : Seq) (be : Bool) (k : Nat) : Seq :=
  { q with uir := if be then 0xD0 else 0xD1, k5 := BitVec.ofNat 3 k }

/-- The first `k` digest words of state `h` written into `d` by path `be`. -/
def putDigestUpTo (be : Bool) (h : Quint) (d : Vector Byte 20) (k : Nat) : Vector Byte 20 :=
  (List.range k).foldl (fun d k => putDigestWord be h k d) d

theorem putDigestUpTo_succ (be : Bool) (h : Quint) (d : Vector Byte 20) (k : Nat) :
    putDigestUpTo be h d (k + 1) = putDigestWord be h k (putDigestUpTo be h d k) := by
  simp [putDigestUpTo, List.range_succ]

/-- The encoder inside a command, its first `k` words written. -/
def State.encoding (s : State) (be : Bool) (h : Quint) (u : Units) (q : Seq) (k : Nat) : State :=
  (s.setDigest (putDigestUpTo be h s.ctx.digest k)).inCommand h u (q.wordAt be k)

/-- ENC.ST or ENC.SWST writes digest word `k` (R243, R244). -/
theorem steps_encodeWord {s : State} {h : Quint} {u : Units} {q : Seq} {be : Bool} {k : Nat} (hk : k < 5) :
    Steps 1 (s.encoding be h u q k)
      (((s.setDigest (putDigestUpTo be h s.ctx.digest (k + 1))).inCommand h u (q.wordAt be k)).afterWord
        (if be then 0xD0 else 0xD1)) := by
  have hcount : (s.encoding be h u q k).kCount = k := by
    show (BitVec.ofNat 3 k).toNat = k
    rw [BitVec.toNat_ofNat, Nat.mod_eq_of_lt (by omega)]
  have he : (s.encoding be h u q k).encodeWord be =
      .next ((s.setDigest (putDigestUpTo be h s.ctx.digest (k + 1))).inCommand h u (q.wordAt be k)) := by
    rw [State.encodeWord, hcount, if_pos (by omega), putDigestUpTo_succ]
    rfl
  cases be with
  | true =>
    have hd : decodeMicro (s.encoding true h u q k).ctx.seq.uir = some .encSt := decodeMicro_encode (i := .encSt) rfl
    exact Steps.one rfl hd he rfl
  | false =>
    have hd : decodeMicro (s.encoding false h u q k).ctx.seq.uir = some .encSwst :=
      decodeMicro_encode (i := .encSwst) rfl
    exact Steps.one rfl hd he rfl

/-- The encoder sequence: the digest, phase DONE, and the end of the command (R248, R265). -/
theorem steps_encode (s : State) (h : Quint) (u : Units) (q : Seq) (be : Bool) :
    Steps 5 (s.inCommand h u (q.startEncode be))
      (if q.cmd = hashCode then ((s.setH h).encodeDigest be).retire
       else (((s.setH h).setUnits u).encodeDigest be).retireSeq) := by
  have words := Steps.loop (c := 1) (n := 4) (f := s.encoding be h u q) fun k hk => by
    have next : ((s.setDigest (putDigestUpTo be h s.ctx.digest (k + 1))).inCommand h u (q.wordAt be k)).afterWord
        (if be then 0xD0 else 0xD1) = s.encoding be h u q (k + 1) := by
      interval_cases k <;> rfl
    exact next ▸ steps_encodeWord (by omega)
  have last := steps_encodeWord (s := s) (h := h) (u := u) (q := q) (be := be) (k := 4) (by omega)
  have done : ((s.setDigest (putDigestUpTo be h s.ctx.digest 5)).inCommand h u (q.wordAt be 4)).afterWord
      (if be then 0xD0 else 0xD1) = (if q.cmd = hashCode then ((s.setH h).encodeDigest be).retire
        else (((s.setH h).setUnits u).encodeDigest be).retireSeq) := by
    have hinHash : ((s.setDigest (putDigestUpTo be h s.ctx.digest 5)).inCommand h u (q.wordAt be 4)).inHash =
        decide (q.cmd = hashCode) := rfl
    rw [State.afterWord, if_neg (by exact Nat.lt_irrefl 4), hinHash]
    by_cases hc : q.cmd = hashCode
    · rw [decide_eq_true hc, if_pos rfl, if_pos hc]
      rfl
    · rw [decide_eq_false hc, if_neg Bool.false_ne_true, if_neg hc]
      rfl
  exact words.trans (done ▸ last)

/-! ## The two descriptions of a command agree (R10) -/

/-- A command issued with outcome `issued` ends as `o`. -/
def Refines (issued o : Out) : Prop :=
  match issued with
  | .next t => Ends t o
  | .fault f => o = .fault f
  | .refused r => o = .refused r

theorem Refines.refl (o : Out) : Refines o o := by
  cases o with
  | next t => exact Ends.refl t
  | fault f => exact rfl
  | refused r => exact rfl

/-- Both descriptions of a command begin alike (R288). -/
theorem Refines.onCommand {s : State} {f g : State → Out} (h : Refines (f s) (g s)) :
    Refines (s.onCommand f) (s.onCommand g) := by
  unfold State.onCommand
  split_ifs
  · exact Refines.refl _
  · exact Refines.refl _
  · exact h

@[simp] theorem State.inHash_inCommand (s : State) (h : Quint) (u : Units) (q : Seq) :
    (s.inCommand h u q).inHash = decide (q.cmd = hashCode) := rfl

/-- After the last full block TRANSFORM ends, HASH goes on with the padding sequence (R255). -/
theorem State.afterBlocks_inCommand (s : State) (h : Quint) (u : Units) (q : Seq) :
    (s.inCommand h u q).afterBlocks =
      if q.cmd = hashCode then s.inCommand h u (q.startPadding (s.len % 64)) else (s.setH h).retire := by
  rw [State.afterBlocks, State.inHash_inCommand]
  by_cases hc : q.cmd = hashCode
  · rw [decide_eq_true hc, if_pos rfl, if_pos hc]; rfl
  · rw [decide_eq_false hc, if_neg Bool.false_ne_true, if_neg hc]; rfl

/-- After the last final block FINALIZE ends, HASH goes on with the encoder sequence (R220, R255). -/
theorem State.afterFinal_inCommand (s : State) (h : Quint) (u : Units) (q : Seq) :
    (s.inCommand h u q).afterFinal =
      if q.cmd = hashCode then
        (s.setPhase .final).inCommand h u (({ q with fb := 0 } : Seq).startEncode s.env.hostBE)
      else ((s.setH h).setPhase .final).retire := by
  rw [State.afterFinal, State.inHash_inCommand]
  by_cases hc : q.cmd = hashCode
  · rw [decide_eq_true hc, if_pos rfl, if_pos hc]; rfl
  · rw [decide_eq_false hc, if_neg Bool.false_ne_true, if_neg hc]; rfl

/-- TRANSFORM, accepted, with something to absorb (R141). -/
theorem ends_transform {s : State} (hp : s.env.present s.ctx.bsel = true) (hn : s.len ≠ 0) :
    Ends (s.run ((Seq.start 0x30).startBlock s.ctx.bsel))
      (s.finish 0x30 ((s.transformBlocks s.ptr s.len).map State.retire)) := by
  obtain ⟨m, hm⟩ := Nat.exists_eq_succ_of_ne_zero hn
  rw [State.run_eq_inCommand, State.transformBlocks, hm]
  refine ends_blocks (q := Seq.start 0x30) (m := m) hp rfl ?_ (fun h' hh u' q' hc => ?_) fun e he => ?_
  · show 0 + (m + 1) = s.len
    omega
  · rw [State.afterBlocks_inCommand, hc, if_neg (by decide), show s.absorb s.ptr s.ctx.h (m + 1) = .ok h' from hh]
    exact Ends.refl _
  · rw [show s.absorb s.ptr s.ctx.h (m + 1) = e.res from he, Halt.map_res, Halt.map_res, State.finish_halt]
    rfl

theorem refines_transform (s : State) : Refines (issue .transform s) (exec .transform s) := by
  show Refines s.issueTransform (execTransform s)
  unfold State.issueTransform execTransform
  refine Refines.onCommand ?_
  cases s.transformCheck with
  | some c => exact Refines.refl _
  | none =>
    show Refines (if s.len = 0 then _ else _) (if s.len = 0 then _ else _)
    split_ifs with hn hp
    · exact Refines.refl _
    · exact Refines.refl _
    · exact ends_transform (by simpa using hp) hn

/-- What FINALIZE makes of `H` when its tail is read (R220). -/
theorem State.finalizeTail_ok {s : State} {p n : Nat} {tail : List Byte} (h : s.memRead p (n % 64) = .ok tail) :
    s.finalizeTail p n = .ok ((s.setH ((pad tail n).foldl compress s.ctx.h)).setPhase .final) := by
  rw [State.finalizeTail, h, compressWith_eq_compress]
  rfl

theorem State.finalizeTail_halt {s : State} {p n : Nat} {e : Halt} (h : s.memRead p (n % 64) = e.res) :
    s.finalizeTail p n = e.res := by
  rw [State.finalizeTail, h, Halt.map_res]

/-- FINALIZE, accepted (R220, R227). -/
theorem ends_finalize {s : State} (hp : s.env.present s.ctx.bsel = true) :
    Ends (s.run ((Seq.start 0x40).startPadding s.tailSize))
      (s.finish 0x40 ((s.finalizeTail s.ptr s.len).map State.retire)) := by
  obtain ⟨tail, ht⟩ | ⟨e, he⟩ := (s.memRead s.ptr (s.len % 64)).ok_or_halt
  · obtain ⟨n, u', q', hs, hc⟩ := steps_padding (h := s.ctx.h) (u := s.ctx.units) (q := Seq.start 0x40) hp ht
    refine hs.ends ?_
    rw [State.afterFinal_inCommand, hc, if_neg (by decide), State.finalizeTail_ok ht]
    exact Ends.refl _
  · rw [State.finalizeTail_halt he, Halt.map_res, State.finish_halt, State.run_eq_inCommand]
    exact ends_padCopy (s := s) (q := (Seq.start 0x40).startPadding s.tailSize) rfl he

theorem refines_finalize (s : State) : Refines (issue .finalize s) (exec .finalize s) := by
  show Refines s.issueFinalize (execFinalize s)
  unfold State.issueFinalize execFinalize
  refine Refines.onCommand ?_
  cases s.finalizeCheck with
  | some c => exact Refines.refl _
  | none =>
    show Refines (if _ then _ else _) (if _ then _ else _)
    split_ifs with hp
    · exact Refines.refl _
    · exact ends_finalize (by simpa using hp)

/-- An ENCODE by either path (R240 to R242, R248). -/
theorem refines_encode (s : State) (be : Bool) {code : Byte} (hc : code ≠ hashCode) :
    Refines (s.issueEncode be code) (s.encodeBy be code) := by
  refine Refines.onCommand ?_
  split_ifs
  · have hs := steps_encode s s.ctx.h s.ctx.units (Seq.start code) be
    rw [if_neg (show (Seq.start code).cmd ≠ hashCode from hc)] at hs
    exact hs.ends (Ends.refl _)
  · exact Refines.refl _

/-- The end of HASH once its full blocks are absorbed: FINALIZE and ENCODE (R255). -/
theorem ends_hashTail {s : State} {h : Quint} {u : Units} {q : Seq} (hp : s.env.present s.ctx.bsel = true)
    (hc : q.cmd = hashCode) :
    Ends (s.inCommand h u (q.startPadding (s.len % 64))) (s.finish hashCode
      ((((s.setH h).finalizeTail (s.ptr + 64 * (s.len / 64)) s.len).map fun t => t.encodeDigest t.env.hostBE).map
        State.retire)) := by
  have htail : s.tailAt q.cmd = s.ptr + 64 * (s.len / 64) := if_pos hc
  have hread : (s.setH h).memRead (s.ptr + 64 * (s.len / 64)) (s.len % 64) =
      s.memRead (s.tailAt q.cmd) (s.len % 64) := by
    rw [htail]
    exact State.memRead_congr (s := s) (t := s.setH h) rfl rfl _ _
  obtain ⟨tail, ht⟩ | ⟨e, he⟩ := (s.memRead (s.tailAt q.cmd) (s.len % 64)).ok_or_halt
  · rw [State.finalizeTail_ok (hread.trans ht)]
    obtain ⟨n, u', q', hs, hc'⟩ := steps_padding (h := h) (u := u) (q := q) hp ht
    have hhash : q'.cmd = hashCode := hc'.trans hc
    rw [State.afterFinal_inCommand, if_pos hhash] at hs
    have henc := steps_encode (s.setPhase .final) ((pad tail s.len).foldl compress h) u' { q' with fb := 0 }
      s.env.hostBE
    rw [if_pos hhash] at henc
    exact (hs.trans henc).ends (Ends.refl _)
  · rw [State.finalizeTail_halt (hread.trans he), Halt.map_res, Halt.map_res, State.finish_halt, ← hc]
    exact ends_padCopy (q := q.startPadding (s.len % 64)) rfl he

/-- HASH once it is prepared: TRANSFORM, FINALIZE and ENCODE (R255, R265). -/
theorem ends_hashMessage {s : State} (hp : s.env.present s.ctx.bsel = true) :
    Ends (s.run (if s.len / 64 = 0 then (Seq.start hashCode).startPadding s.tailSize
      else (Seq.start hashCode).startBlock s.ctx.bsel)) (s.finish hashCode (s.hashMessage.map State.retire)) := by
  rw [State.run_eq_inCommand]
  unfold State.hashMessage State.transformBlocks
  split_ifs with hn
  · rw [hn]
    have key := ends_hashTail (h := s.ctx.h) (u := s.ctx.units) (q := Seq.start hashCode) hp rfl
    rw [hn] at key
    exact key
  · obtain ⟨m, hm⟩ := Nat.exists_eq_succ_of_ne_zero hn
    refine ends_blocks (q := Seq.start hashCode) hp rfl (m := m) ?_ (fun h' hh u' q' hc => ?_) fun e he => ?_
    · show 0 + (m + 1) = s.len / 64
      omega
    · rw [State.afterBlocks_inCommand, if_pos (show q'.cmd = hashCode from hc), hm,
        show s.absorb s.ptr s.ctx.h (m + 1) = .ok h' from hh, ← hm]
      exact ends_hashTail hp hc
    · rw [hm, show s.absorb s.ptr s.ctx.h (m + 1) = e.res from he, Halt.map_res, Halt.bind_res, Halt.map_res,
        State.finish_halt]
      rfl

/-- The unit that HASH selects is there (R128). -/
theorem State.present_of_hashPrepare {s t : State} (h : s.hashPrepare = .ok t) :
    t.env.present t.ctx.bsel = true := by
  obtain ⟨u, hu, rfl⟩ := Res.map_eq_ok.mp h
  obtain ⟨hp, rfl⟩ := State.chooseBackend_eq_ok.mp hu
  exact hp

theorem refines_hash (s : State) : Refines (issue .hash s) (exec .hash s) := by
  show Refines s.issueHash (execHash s)
  unfold State.issueHash execHash
  refine Refines.onCommand ?_
  cases s.hashCheck with
  | some c => exact Refines.refl _
  | none =>
    cases hs : s.hashPrepare with
    | raise c => exact Refines.refl _
    | stop f => exact Refines.refl _
    | ok t => exact ends_hashMessage (State.present_of_hashPrepare hs)

/-- Settles O52: each command, issued and drained, ends as the command taken atomically. -/
theorem commandRefinement : Obligations.CommandRefinement := by
  unfold Obligations.CommandRefinement
  intro i s hi hb
  show Refines (issue i s) (exec i s)
  cases i with
  | transform => exact refines_transform s
  | finalize => exact refines_finalize s
  | encode => exact refines_encode s s.env.hostBE (by decide)
  | encodeLE => exact refines_encode s false (by decide)
  | encodeBE => exact refines_encode s true (by decide)
  | hash => exact refines_hash s
  | getcaps | select | selectG | selectA | selectB | init => exact Refines.refl _
  | _ => cases hi

end Sys2Proof.Machine
end

section
/-!
PROOFS. What a turn can change, said once: a micro-operation and the move of the position after it, a command taken
atomically or issued, an operand write, a read (`TurnDoes.turnsTo`). The invariant (R6, R27, R30, R31, R128, R140) and
the fixed selection (R26, R130) follow from these cases.
-/

namespace Sys2Proof.Machine

/-! ## Outcomes -/

/-- If the outcome is a next state, `P` holds of it. -/
def After (P : State → Prop) (o : Out) : Prop := ∀ t, o = .next t → P t

theorem After.next {P : State → Prop} {t : State} (h : P t) : After P (.next t) := fun _ ht => by cases ht; exact h

theorem After.fault {P : State → Prop} {f : Fault} : After P (.fault f) := fun _ ht => by cases ht

theorem After.refused {P : State → Prop} {r : Refusal} : After P (.refused r) := fun _ ht => by cases ht

theorem After.finish {P : State → Prop} {s : State} {code : Byte} {r : Res State} (hok : ∀ t, r = .ok t → P t)
    (hbad : ∀ c, P (s.takeFault c code)) : After P (s.finish code r) := fun t ht => by
  obtain h | ⟨c, _, rfl⟩ := State.finish_next ht
  · exact hok t h
  · exact hbad c

theorem After.onUnitA {P : State → Prop} {s : State} {f : State → Out} (h : After P (f s)) : After P (s.onUnitA f) :=
  fun t ht => h t (State.onUnitA_next ht).2

theorem After.onUnitB {P : State → Prop} {s : State} {f : State → Out} (h : After P (f s)) : After P (s.onUnitB f) :=
  fun t ht => h t (State.onUnitB_next ht).2

theorem After.onCommand {P : State → Prop} {s : State} {body : State → Out} (hs : P s)
    (h : s.Ready → After P (body s)) : After P (s.onCommand body) := fun t ht => by
  obtain ⟨_, rfl⟩ | ⟨hr, ht⟩ := State.onCommand_next ht
  · exact hs
  · exact h hr t ht

/-! ## A micro-operation -/

/-- `t` is `s` with other values in `H`, DIGEST and the registers of the units. -/
def State.SetsData (s t : State) : Prop :=
  ∃ h d u, t = { s with ctx := { s.ctx with h := h, digest := d, units := u } }

/-- `t` is `s` with its data changed, or after a fault. -/
def State.SetsOrFaults (s t : State) : Prop := s.SetsData t ∨ ∃ c code, t = s.takeFault c code

theorem State.setUnits_setsData (s : State) (u : Units) : s.SetsData (s.setUnits u) := ⟨_, _, _, rfl⟩

theorem State.setH_setsData (s : State) (q : Quint) : s.SetsData (s.setH q) := ⟨_, _, _, rfl⟩

theorem After.sets {s t : State} (h : s.SetsData t) : After s.SetsOrFaults (.next t) := After.next (.inl h)

/-- A micro-operation that reads, then writes what it read into the registers of the units. -/
theorem After.reads {α : Type} {s : State} {r : Res α} {f : α → Units} {code : Byte} :
    After s.SetsOrFaults (s.finish code (r.map fun a => s.setUnits (f a))) := by
  refine After.finish (fun t ht => ?_) fun c => .inr ⟨c, _, rfl⟩
  obtain ⟨a, _, rfl⟩ := Res.map_eq_ok.mp ht
  exact .inl (s.setUnits_setsData (f a))

theorem After.scalarRound (s : State) (stage : Nat) : After s.SetsOrFaults (s.scalarRound stage) := by
  unfold State.scalarRound
  split_ifs
  · exact After.sets (s.setUnits_setsData _)
  · exact After.refused

theorem After.encodeWord (s : State) (be : Bool) : After s.SetsOrFaults (s.encodeWord be) := by
  unfold State.encodeWord
  split_ifs
  · exact After.sets ⟨_, _, _, rfl⟩
  · exact After.refused

/-- A micro-operation writes data alone, or ends in a fault. -/
theorem exec_setsOrFaults {i : Instr} (hi : i.isCommand = false) (s : State) : After s.SetsOrFaults (exec i s) := by
  cases i with
  | ldbe32 =>
    show After _ (execLdbe32 s)
    unfold execLdbe32
    dsimp only
    split_ifs
    · exact After.reads
    · exact After.refused
  | schedLoad =>
    show After _ (execSchedLoad s)
    unfold execSchedLoad
    split_ifs
    · exact After.reads
    · exact After.refused
  | schedExp =>
    show After _ (execSchedExp s)
    unfold execSchedExp
    dsimp only
    split_ifs
    · exact After.sets (s.setUnits_setsData _)
    · exact After.refused
  | vaLdbe =>
    show After _ (execVaLdbe s)
    refine After.onUnitA ?_
    split_ifs
    · exact After.reads
    · exact After.refused
  | vbLdbe =>
    show After _ (execVbLdbe s)
    refine After.onUnitB ?_
    split_ifs
    · exact After.reads
    · exact After.refused
  | padCopy => exact After.reads
  | rndCh => exact After.scalarRound s 0
  | rndPar1 => exact After.scalarRound s 1
  | rndMaj => exact After.scalarRound s 2
  | rndPar2 => exact After.scalarRound s 3
  | encSt => exact After.encodeWord s true
  | encSwst => exact After.encodeWord s false
  | feedfwd => exact After.sets (s.setH_setsData _)
  | stbe64 | bswap32 | wrLoad | padMark | padLen | padZero0 | padZero1 | padZero2 =>
    exact After.sets (s.setUnits_setsData _)
  | vaInit | vaSu0 | vaSu1 | vaAddk | vaH | vaR4c | vaR4p | vaR4m | vaAcc =>
    show After _ (s.onUnitA fun s => .next _)
    exact After.onUnitA (After.sets ⟨_, _, _, rfl⟩)
  | vbInit | vbMsg1 | vbXor | vbMsg2 | vbEadd | vbNexte | vbRnds4 | vbAcc =>
    show After _ (s.onUnitB fun s => .next _)
    exact After.onUnitB (After.sets ⟨_, _, _, rfl⟩)
  | _ => cases hi

/-! ## The move of the position -/

/-- `t` is `s` with other values in the position, BUSY and the registers of the units; the phase may have become FINAL
or DONE. -/
def State.MovesOn (s t : State) : Prop :=
  ∃ p b u q n, t = { s with ctx := { s.ctx with phase := p, busy := b, units := u, seq := q }, free := n } ∧
    (p = s.ctx.phase ∨ p = .final ∨ p = .done)

theorem State.mapSeq_movesOn (s : State) (f : Seq → Seq) : s.MovesOn (s.mapSeq f) :=
  ⟨_, _, _, _, _, rfl, .inl rfl⟩

theorem State.retire_movesOn (s : State) : s.MovesOn s.retire := ⟨_, _, _, _, _, rfl, .inl rfl⟩

theorem State.loopT_movesOn (s : State) (code : Byte) (last : Nat) (next : Byte) (start : Nat) :
    s.MovesOn (s.loopT code last next start) := by
  unfold State.loopT
  split_ifs <;> exact s.mapSeq_movesOn _

theorem State.afterBlock_movesOn (s : State) : s.MovesOn s.afterBlock := by
  unfold State.afterBlock State.afterBlocks State.afterFinal
  dsimp only
  split_ifs
  · exact s.mapSeq_movesOn _
  · exact s.mapSeq_movesOn _
  · exact s.retire_movesOn
  · exact s.mapSeq_movesOn _
  · exact ⟨_, _, _, _, _, rfl, .inr (.inl rfl)⟩
  · exact ⟨_, _, _, _, _, rfl, .inr (.inl rfl)⟩

theorem State.afterWord_movesOn (s : State) (code : Byte) : s.MovesOn (s.afterWord code) := by
  unfold State.afterWord
  split_ifs
  · exact s.mapSeq_movesOn _
  · exact ⟨_, _, _, _, _, rfl, .inr (.inr rfl)⟩
  · exact ⟨_, _, _, _, _, rfl, .inr (.inr rfl)⟩

theorem State.afterGroupA_movesOn (s : State) : s.MovesOn s.afterGroupA := by
  unfold State.afterGroupA
  split_ifs <;> exact s.mapSeq_movesOn _

theorem State.afterGroupB_movesOn (s : State) : s.MovesOn s.afterGroupB := by
  unfold State.afterGroupB
  split_ifs <;> exact s.mapSeq_movesOn _

theorem advance_movesOn (i : Instr) (s : State) : s.MovesOn (advance i s) := by
  cases i with
  | schedLoad | schedExp | rndCh | rndPar1 | rndMaj | rndPar2 => exact s.loopT_movesOn _ _ _ _
  | feedfwd | vaAcc | vbAcc => exact s.afterBlock_movesOn
  | vaR4c | vaR4p | vaR4m => exact s.afterGroupA_movesOn
  | vbRnds4 => exact s.afterGroupB_movesOn
  | encSt | encSwst => exact s.afterWord_movesOn _
  | vaLdbe | vbLdbe =>
    unfold advance
    dsimp only
    split_ifs <;> exact s.mapSeq_movesOn _
  | _ => exact ⟨_, _, _, _, _, rfl, .inl rfl⟩

/-! ## A turn -/

/-- What a turn leaves outside the context in focus: parameters, host memory and the other contexts as they were, the
cache as it was or filled with the provider's answer (R62). -/
def State.Beside (s t : State) : Prop :=
  t.env = s.env ∧ t.mem = s.mem ∧ t.before = s.before ∧ t.after = s.after ∧
  (t.capsValid = s.capsValid ∧ t.caps = s.caps ∨
    s.capsValid = false ∧ t.capsValid = true ∧ t.caps = s.env.capIn)

/-- A command runs, a computation is open, or a backend is selected outside phase FAULT: where the invariant gives the
context a selected backend. -/
def Context.Engaged (c : Context) : Prop :=
  c.busy = true ∨ c.phase = .absorb ∨ c.phase = .final ∨ (c.bselValid = true ∧ c.phase ≠ .fault)

/-- What a turn can do to the context `c` in focus. -/
inductive Context.Turn (env : Env) (c c' : Context) : Prop where
  /-- Phase and selection stay; a host write may change an operand. -/
  | keeps (hphase : c'.phase = c.phase) (hbusy : c'.busy = c.busy) (hfault : c'.fault = c.fault)
      (hfcmd : c'.fcmd = c.fcmd) (hbsel : c'.bsel = c.bsel) (hvalid : c'.bselValid = c.bselValid)
      (hptr : c'.opPtr = c.opPtr ∨ ∃ v, c'.opPtr = truncTo env.addrW v)
      (hlen : c'.opLen = c.opLen ∨ ∃ v, c'.opLen = truncTo env.addrW v)
  /-- A computation with a selected backend begins, goes on or ends. -/
  | goesOn (hc : c.Engaged) (hphase : c'.phase = c.phase ∨ c'.phase ≠ .fault) (hfault : c'.fault = c.fault)
      (hfcmd : c'.fcmd = c.fcmd) (hbsel : c'.bsel = c.bsel) (hvalid : c'.bselValid = c.bselValid)
      (hptr : c'.opPtr = c.opPtr) (hlen : c'.opLen = c.opLen)
  /-- Between two computations, a unit of this build is selected. -/
  | selects (hbetween : c.phase.isBetween = true) (hphase : c'.phase ≠ .fault) (hfault : c'.fault = c.fault)
      (hfcmd : c'.fcmd = c.fcmd) (hvalid : c'.bselValid = true) (hpresent : env.present c'.bsel = true)
      (hptr : c'.opPtr = c.opPtr) (hlen : c'.opLen = c.opLen)
  /-- The command ends in a fault. -/
  | faults (hc : c.busy = true ∨ c.phase ≠ .fault) (hphase : c'.phase = .fault) (hbusy : c'.busy = false)
      (hfault : c'.fault.isSome = true) (hptr : c'.opPtr = c.opPtr) (hlen : c'.opLen = c.opLen)

/-- `t` is `s` after a turn. -/
def State.TurnsTo (s t : State) : Prop := s.Beside t ∧ s.ctx.Turn s.env t.ctx

theorem State.Beside.refl (s : State) : s.Beside s := ⟨rfl, rfl, rfl, rfl, .inl ⟨rfl, rfl⟩⟩

theorem State.beside_fillCaps (s : State) : s.Beside s.fillCaps := by
  obtain ⟨_, h⟩ | ⟨hv, h⟩ := s.fillCaps_cases <;> rw [h]
  · exact State.Beside.refl s
  · exact ⟨rfl, rfl, rfl, rfl, .inr ⟨hv, rfl, rfl⟩⟩

theorem Context.Turn.refl (env : Env) (c : Context) : c.Turn env c :=
  .keeps rfl rfl rfl rfl rfl rfl (.inl rfl) (.inl rfl)

theorem State.TurnsTo.refl (s : State) : s.TurnsTo s := ⟨State.Beside.refl s, Context.Turn.refl _ _⟩

theorem State.turnsTo_takeFault {s : State} (hs : s.ctx.busy = true ∨ s.ctx.phase ≠ .fault) (c : Cause) (code : Byte) :
    s.TurnsTo (s.takeFault c code) := ⟨State.Beside.refl s, .faults hs rfl rfl rfl rfl rfl⟩

/-- A computation with a selected backend begins, goes on or ends: what the command may write on the way. -/
theorem State.turnsTo_goesOn {s : State} {p : Phase} {b : Bool} {h : Quint} {d : Vector Byte 20} {u : Units} {q : Seq}
    {n : Nat} (hc : s.ctx.Engaged) (hp : p = s.ctx.phase ∨ p ≠ .fault) :
    s.TurnsTo { s with
      ctx := { s.ctx with phase := p, busy := b, h := h, digest := d, units := u, seq := q }, free := n } :=
  ⟨State.Beside.refl s, .goesOn hc hp rfl rfl rfl rfl rfl rfl⟩

/-! ## A micro-step -/

/-- A code in the sequencer names no command (R70). -/
theorem isCommand_of_decodeMicro {c : Byte} {i : Instr} (h : decodeMicro c = some i) : i.isCommand = false := by
  have rows : ∀ r ∈ microRows, ∀ x, (r.make x).isCommand = false := by decide
  obtain ⟨r, hr, rfl⟩ := Option.map_eq_some_iff.mp h
  exact rows r (List.mem_of_find?_eq_some hr) _

theorem microStep_turnsTo {s : State} (hb : s.ctx.busy = true) : After s.TurnsTo (microStep s) := fun t ht => by
  obtain ⟨i, u, hi, hu, rfl⟩ := microStep_next ht
  obtain ⟨h, d, r, rfl⟩ | ⟨c, code, rfl⟩ := exec_setsOrFaults (isCommand_of_decodeMicro hi) s u hu
  · obtain ⟨p, b, r', q, n, hmove, hp⟩ :=
      advance_movesOn i { s with ctx := { s.ctx with h := h, digest := d, units := r } }
    rw [if_pos hb, hmove]
    refine State.turnsTo_goesOn (.inl hb) (hp.imp_right fun hp => ?_)
    obtain rfl | rfl := hp <;> decide
  · exact State.turnsTo_takeFault (.inl hb) c code

/-! ## Commands (R288) -/

/-- A command that looks at the context before it acts: nothing happens, or what its body does. -/
theorem After.command {s : State} {body : State → Out} (h : s.Ready → After s.TurnsTo (body s)) :
    After s.TurnsTo (s.onCommand body) := After.onCommand (State.TurnsTo.refl s) h

/-- The fault of a command that is looked at. -/
theorem State.Ready.faults {s : State} (hr : s.Ready) (c : Cause) (code : Byte) :
    After s.TurnsTo (.next (s.takeFault c code)) := After.next (State.turnsTo_takeFault (.inr hr.2) c code)

theorem State.turnsTo_fillCaps (s : State) : s.TurnsTo s.fillCaps :=
  ⟨s.beside_fillCaps, by rw [s.fillCaps_ctx_mem.1]; exact Context.Turn.refl _ _⟩

theorem execGetcaps_turnsTo (s : State) : After s.TurnsTo (execGetcaps s) :=
  After.command fun _ => After.next s.turnsTo_fillCaps

theorem State.Ready.chooseBackend {s : State} (hr : s.Ready) (hb : s.ctx.phase.isBetween = true) (t : Backend)
    (code : Byte) : After s.TurnsTo (s.finish code (s.chooseBackend t)) := by
  refine After.finish (fun u hu => ?_) fun c => State.turnsTo_takeFault (.inr hr.2) c code
  obtain ⟨hp, rfl⟩ := State.chooseBackend_eq_ok.mp hu
  exact ⟨State.Beside.refl s, .selects hb hr.2 rfl rfl rfl hp rfl rfl⟩

theorem forceBackend_turnsTo (s : State) (t : Backend) (code : Byte) : After s.TurnsTo (s.forceBackend t code) :=
  After.command fun hr => by
    split_ifs with hb
    · exact hr.chooseBackend hb t code
    · exact hr.faults _ _

theorem execSelect_turnsTo (s : State) : After s.TurnsTo (execSelect s) :=
  After.command fun hr => by
    split_ifs with hb
    · exact hr.chooseBackend (Bool.and_eq_true_iff.mp hb).1 _ _
    · exact hr.faults _ _

theorem execInit_turnsTo (s : State) : After s.TurnsTo (execInit s) :=
  After.command fun hr => by
    split_ifs with hb
    · exact After.next (State.turnsTo_goesOn (.inr (.inr (.inr ⟨(Bool.and_eq_true_iff.mp hb).2, hr.2⟩)))
        (.inr (by decide)))
    · exact hr.faults _ _

/-- TRANSFORM is accepted in phase ABSORB alone. -/
theorem State.phase_of_transformCheck {s : State} (h : s.transformCheck = none) : s.ctx.phase = .absorb :=
  of_decide_eq_true (acceptCheck_eq_none.mp h).1

/-- FINALIZE is accepted in phase ABSORB alone. -/
theorem State.phase_of_finalizeCheck {s : State} (h : s.finalizeCheck = none) : s.ctx.phase = .absorb :=
  of_decide_eq_true (acceptCheck_eq_none.mp h).1

/-- HASH is accepted between two computations alone. -/
theorem State.phase_of_hashCheck {s : State} (h : s.hashCheck = none) : s.ctx.phase.isBetween = true :=
  (acceptCheck_eq_none.mp h).1

theorem execTransform_turnsTo (s : State) : After s.TurnsTo (execTransform s) :=
  After.command fun hr => by
    split
    · exact hr.faults _ _
    · rename_i hcheck
      split_ifs
      · exact After.next (State.TurnsTo.refl s)
      · exact After.refused
      · refine After.finish (fun t ht => ?_) fun c => State.turnsTo_takeFault (.inr hr.2) c _
        obtain ⟨t, hblocks, rfl⟩ := Res.map_eq_ok.mp ht
        obtain ⟨h, -, rfl⟩ := Res.map_eq_ok.mp hblocks
        exact State.turnsTo_goesOn (.inr (.inl (State.phase_of_transformCheck hcheck))) (.inl rfl)

theorem execFinalize_turnsTo (s : State) : After s.TurnsTo (execFinalize s) :=
  After.command fun hr => by
    split
    · exact hr.faults _ _
    · rename_i hcheck
      split_ifs
      · exact After.refused
      · refine After.finish (fun t ht => ?_) fun c => State.turnsTo_takeFault (.inr hr.2) c _
        obtain ⟨t, htail, rfl⟩ := Res.map_eq_ok.mp ht
        obtain ⟨tail, -, rfl⟩ := Res.map_eq_ok.mp htail
        exact State.turnsTo_goesOn (p := .final) (.inr (.inl (State.phase_of_finalizeCheck hcheck))) (.inr (by decide))

theorem encodeBy_turnsTo (s : State) (be : Bool) (code : Byte) : After s.TurnsTo (s.encodeBy be code) :=
  After.command fun hr => by
    split_ifs with hp
    · exact After.next (State.turnsTo_goesOn (p := .done) (.inr (.inr (.inl hp))) (.inr (by decide)))
    · exact hr.faults _ _

/-! ### HASH (R255) -/

/-- Once HASH is prepared its computation goes on or ends, with the unit it selected. -/
theorem State.turnsTo_of_hashPrepare {s s1 : State} {p : Phase} {b : Bool} {h : Quint} {d : Vector Byte 20} {u : Units}
    {q : Seq} {n : Nat} (hb : s.ctx.phase.isBetween = true) (h1 : s.hashPrepare = .ok s1) (hp : p ≠ .fault) :
    s.TurnsTo { s1 with
      ctx := { s1.ctx with phase := p, busy := b, h := h, digest := d, units := u, seq := q }, free := n } := by
  have hpresent := State.present_of_hashPrepare h1
  obtain rfl := State.hashPrepare_eq_ok h1
  obtain ⟨hctx, -⟩ := s.fillCaps_ctx_mem
  have henv : s.fillCaps.env = s.env := s.beside_fillCaps.1
  refine ⟨s.beside_fillCaps, .selects hb hp ?_ ?_ rfl (henv ▸ hpresent) ?_ ?_⟩ <;>
    simp only [State.startComputation, State.setBackend, hctx]

/-- A fault of HASH after the cache was filled, before or after the preparation. -/
theorem State.turnsTo_hash_takeFault {s s1 : State} (hr : s.Ready) (h1 : s1 = s.fillCaps ∨ s.hashPrepare = .ok s1)
    (c : Cause) (code : Byte) : s.TurnsTo (s1.takeFault c code) := by
  obtain ⟨hctx, -⟩ := s.fillCaps_ctx_mem
  obtain rfl | h1 := h1
  · refine ⟨s.beside_fillCaps, .faults (.inr hr.2) rfl rfl rfl ?_ ?_⟩ <;> simp only [State.takeFault, hctx]
  · obtain rfl := State.hashPrepare_eq_ok h1
    refine ⟨s.beside_fillCaps, .faults (.inr hr.2) rfl rfl rfl ?_ ?_⟩ <;>
      simp only [State.takeFault, State.startComputation, State.setBackend, hctx]

/-- TRANSFORM, FINALIZE and ENCODE of HASH write `H` and DIGEST and end in DONE. -/
theorem State.hashMessage_eq_ok {s t : State} (h : s.hashMessage = .ok t) :
    ∃ q d, t = { s with ctx := { s.ctx with phase := .done, h := q, digest := d } } := by
  obtain ⟨s1, h1, h⟩ := Res.bind_eq_ok.mp h
  obtain ⟨q, -, rfl⟩ := Res.map_eq_ok.mp h1
  obtain ⟨s2, h2, rfl⟩ := Res.map_eq_ok.mp h
  obtain ⟨tail, -, rfl⟩ := Res.map_eq_ok.mp h2
  exact ⟨_, _, rfl⟩

theorem execHash_turnsTo (s : State) : After s.TurnsTo (execHash s) :=
  After.command fun hr => by
    split
    · exact hr.faults _ _
    rename_i hcheck
    have hb := State.phase_of_hashCheck hcheck
    split
    · exact After.next (State.turnsTo_hash_takeFault hr (.inl rfl) _ _)
    · exact After.fault
    · rename_i s1 h1
      refine After.finish (fun t ht => ?_) fun c => State.turnsTo_hash_takeFault hr (.inr h1) c _
      obtain ⟨t, hmessage, rfl⟩ := Res.map_eq_ok.mp ht
      obtain ⟨q, d, rfl⟩ := State.hashMessage_eq_ok hmessage
      exact State.turnsTo_of_hashPrepare (s1 := s1) (p := .done) hb h1 (by decide)

/-! ### A command taken atomically, and issued -/

/-- A byte written to CMD names no micro-operation (R78). -/
theorem isCommand_of_decodeCommand {c : Byte} {i : Instr} (h : decodeCommand c = some i) : i.isCommand = true := by
  have rows : ∀ r ∈ commandRows, ∀ x, (r.make x).isCommand = true := by decide
  obtain ⟨r, hr, rfl⟩ := Option.map_eq_some_iff.mp h
  exact rows r (List.mem_of_find?_eq_some hr) _

theorem exec_turnsTo {i : Instr} (hi : i.isCommand = true) (s : State) : After s.TurnsTo (exec i s) := by
  cases i with
  | getcaps => exact execGetcaps_turnsTo s
  | select => exact execSelect_turnsTo s
  | selectG => exact forceBackend_turnsTo s .generic 0x11
  | selectA => exact forceBackend_turnsTo s .accelA 0x12
  | selectB => exact forceBackend_turnsTo s .accelB 0x13
  | init => exact execInit_turnsTo s
  | transform => exact execTransform_turnsTo s
  | finalize => exact execFinalize_turnsTo s
  | encode => exact encodeBy_turnsTo s s.env.hostBE 0x50
  | encodeLE => exact encodeBy_turnsTo s false 0x51
  | encodeBE => exact encodeBy_turnsTo s true 0x52
  | hash => exact execHash_turnsTo s
  | _ => cases hi

theorem issueTransform_turnsTo (s : State) : After s.TurnsTo s.issueTransform :=
  After.command fun hr => by
    split
    · exact hr.faults _ _
    · rename_i hcheck
      split_ifs
      · exact After.next (State.TurnsTo.refl s)
      · exact After.refused
      · exact After.next (State.turnsTo_goesOn (.inr (.inl (State.phase_of_transformCheck hcheck))) (.inl rfl))

theorem issueFinalize_turnsTo (s : State) : After s.TurnsTo s.issueFinalize :=
  After.command fun hr => by
    split
    · exact hr.faults _ _
    · rename_i hcheck
      split_ifs
      · exact After.refused
      · exact After.next (State.turnsTo_goesOn (.inr (.inl (State.phase_of_finalizeCheck hcheck))) (.inl rfl))

theorem issueEncode_turnsTo (s : State) (be : Bool) (code : Byte) : After s.TurnsTo (s.issueEncode be code) :=
  After.command fun hr => by
    split_ifs with hp
    · exact After.next (State.turnsTo_goesOn (.inr (.inr (.inl hp))) (.inl rfl))
    · exact hr.faults _ _

theorem issueHash_turnsTo (s : State) : After s.TurnsTo s.issueHash :=
  After.command fun hr => by
    split
    · exact hr.faults _ _
    rename_i hcheck
    split
    · exact After.next (State.turnsTo_hash_takeFault hr (.inl rfl) _ _)
    · exact After.fault
    · rename_i s1 h1
      have hphase : s1.ctx.phase = .absorb := by rw [State.hashPrepare_eq_ok h1, State.startComputation_ctx_phase]
      exact After.next (State.turnsTo_of_hashPrepare (s1 := s1) (p := s1.ctx.phase) (State.phase_of_hashCheck hcheck)
        h1 (by rw [hphase]; decide))

theorem issue_turnsTo {i : Instr} (hi : i.isCommand = true) (s : State) : After s.TurnsTo (issue i s) := by
  cases i with
  | transform => exact issueTransform_turnsTo s
  | finalize => exact issueFinalize_turnsTo s
  | encode => exact issueEncode_turnsTo s s.env.hostBE 0x50
  | encodeLE => exact issueEncode_turnsTo s false 0x51
  | encodeBE => exact issueEncode_turnsTo s true 0x52
  | hash => exact issueHash_turnsTo s
  | getcaps | select | selectG | selectA | selectB | init => exact exec_turnsTo hi s
  | _ => cases hi

/-- A write to CMD, whichever way the command runs (R75, R284, R292). -/
theorem writeCmd_turnsTo {run : Instr → State → Out} {s : State}
    (hrun : ∀ i, i.isCommand = true → After s.TurnsTo (run i s)) (c : Byte) : After s.TurnsTo (writeCmd run c s) := by
  unfold writeCmd
  split_ifs with hp
  · exact After.next (State.TurnsTo.refl s)
  · split
    · exact hrun _ (isCommand_of_decodeCommand ‹_›)
    · exact After.next (State.turnsTo_takeFault (.inr hp) _ _)

/-! ## Every turn -/

theorem TurnDoes.turnsTo {s t : State} (h : TurnDoes s t) : s.TurnsTo t := by
  obtain ⟨hb, h⟩ | ⟨-, ⟨c, h⟩ | ⟨c, h⟩ | ⟨v, rfl⟩ | ⟨v, rfl⟩ | rfl⟩ | ⟨r, rfl⟩ := h
  · exact microStep_turnsTo hb t h
  · exact writeCmd_turnsTo (fun i hi => exec_turnsTo hi s) c t h
  · exact writeCmd_turnsTo (fun i hi => issue_turnsTo hi s) c t h
  · exact ⟨State.Beside.refl s, .keeps rfl rfl rfl rfl rfl rfl (.inr ⟨v, rfl⟩) (.inl rfl)⟩
  · exact ⟨State.Beside.refl s, .keeps rfl rfl rfl rfl rfl rfl (.inl rfl) (.inr ⟨v, rfl⟩)⟩
  · exact State.TurnsTo.refl t
  · exact ⟨State.Beside.refl s, Context.Turn.refl _ _⟩

/-! ## The register file -/

theorem State.mem_file {s : State} {c : Context} : c ∈ s.file ↔ c ∈ s.before ∨ c = s.ctx ∨ c ∈ s.after := by
  simp [State.file]

/-- After a turn every entry of the register file is as it was, but for the context in focus. -/
theorem State.Beside.file_getElem {s t : State} (h : s.Beside t) {j : Nat} {c c' : Context} (hc : s.file[j]? = some c)
    (hc' : t.file[j]? = some c') : c' = c ∨ c = s.ctx ∧ c' = t.ctx := by
  obtain ⟨-, -, hbefore, hafter, -⟩ := h
  rw [State.file] at hc hc'
  rw [hbefore, hafter] at hc'
  obtain hj | rfl | hj := Nat.lt_trichotomy j s.before.length
  · rw [List.getElem?_append_left hj] at hc hc'
    exact .inl (Option.some.inj (hc'.symm.trans hc))
  · simp only [List.getElem?_append_right (Nat.le_refl _), Nat.sub_self, List.getElem?_cons_zero,
      Option.some.injEq] at hc hc'
    exact .inr ⟨hc.symm, hc'.symm⟩
  · obtain ⟨m, hm⟩ := Nat.exists_eq_add_of_lt hj
    rw [List.getElem?_append_right (by omega), show j - s.before.length = m + 1 by omega,
      List.getElem?_cons_succ] at hc hc'
    exact .inl (Option.some.inj (hc'.symm.trans hc))

/-! ## The invariant -/

theorem toNat_truncTo_lt (w : Nat) (v : BitVec 64) : (truncTo w v).toNat < 2 ^ w := by
  rw [truncTo, BitVec.toNat_ofNat]
  exact Nat.lt_of_le_of_lt (Nat.mod_le _ _) (Nat.mod_lt _ (Nat.two_pow_pos w))

/-- An engaged context has a selected backend and is not in phase FAULT (R140, R262, R290). -/
theorem Context.Wf.of_engaged {env : Env} {c : Context} (hw : c.Wf env) (hc : c.Engaged) :
    c.bselValid = true ∧ c.phase ≠ .fault := by
  obtain ⟨-, hbusy, -, -, hopen, -⟩ := hw
  obtain hb | hp | hp | hv := hc
  · exact ⟨hopen (.inl hb), hbusy hb⟩
  · exact ⟨hopen (.inr (.inl hp)), by rw [hp]; decide⟩
  · exact ⟨hopen (.inr (.inr hp)), by rw [hp]; decide⟩
  · exact hv

theorem Context.Turn.wf {env : Env} {c c' : Context} (h : c.Turn env c') (hw : c.Wf env) : c'.Wf env := by
  have ⟨hfault, hbusy, hptr, hlen, hopen, hpresent⟩ := hw
  cases h with
  | keeps hp hb hf _ hs hv hptr' hlen' =>
    refine ⟨by rwa [hp, hf], by rwa [hb, hp], ?_, ?_, by rwa [hb, hp, hv], by rwa [hp, hv, hs]⟩
    · obtain h | ⟨v, h⟩ := hptr' <;> rw [h]
      · exact hptr
      · exact toNat_truncTo_lt _ _
    · obtain h | ⟨v, h⟩ := hlen' <;> rw [h]
      · exact hlen
      · exact toNat_truncTo_lt _ _
  | goesOn he hp hf _ hs hv hptr' hlen' =>
    obtain ⟨hvalid, hrun⟩ := hw.of_engaged he
    have hrun' : c'.phase ≠ .fault := by
      obtain hp | hp := hp
      · rwa [hp]
      · exact hp
    refine ⟨iff_of_false hrun' ?_, fun _ => hrun', by rwa [hptr'], by rwa [hlen'], fun _ => by rw [hv, hvalid],
      fun _ _ => by rw [hs]; exact hpresent hrun hvalid⟩
    rw [hf]
    exact fun h => hrun (hfault.mpr h)
  | selects hb hp hf _ hv hs hptr' hlen' =>
    refine ⟨iff_of_false hp ?_, fun _ => hp, by rwa [hptr'], by rwa [hlen'], fun _ => hv, fun _ _ => hs⟩
    rw [hf, ← hfault]
    intro h
    rw [h] at hb
    cases hb
  | faults _ hp hb hf hptr' hlen' =>
    refine ⟨iff_of_true hp hf, ?_, by rwa [hptr'], by rwa [hlen'], ?_, fun h => absurd hp h⟩
    · rw [hb]; exact fun h => Bool.noConfusion h
    · rw [hb, hp]; rintro (h | h | h) <;> cases h

theorem State.turn_inv {s : State} (h : s.Inv) (k : Nat) (es : List Event) : (s.turn k es).Inv := by
  obtain ⟨henv, hvalid, hcaps, hmem, -⟩ := s.focus_other k
  unfold State.Inv
  rw [s.turn_file, State.turn, henv, hvalid, hcaps, hmem]
  exact h

theorem State.TurnsTo.inv {s t : State} (h : s.TurnsTo t) (hs : s.Inv) : t.Inv := by
  obtain ⟨⟨henv, hmem, hbefore, hafter, hcache⟩, hturn⟩ := h
  obtain ⟨hwf, hcanon, hspace, hcaps, hvalid, hctx⟩ := hs
  have hcache' : t.caps.toNat < 2 ^ s.env.capW ∧ (t.capsValid = true → t.caps = s.env.capIn) := by
    obtain ⟨hv, hc⟩ | ⟨-, -, hc⟩ := hcache
    · rw [hv, hc]; exact ⟨hcaps, hvalid⟩
    · obtain ⟨-, -, -, -, -, -, -, hcapIn⟩ := hwf
      rw [hc]; exact ⟨hcapIn, fun _ => rfl⟩
  unfold State.Inv
  rw [henv, hmem]
  refine ⟨hwf, hcanon, hspace, hcache'.1, hcache'.2, fun c hc => ?_⟩
  rw [State.mem_file, hbefore, hafter] at hc
  obtain hc | rfl | hc := hc
  · exact hctx c (State.mem_file.mpr (.inl hc))
  · exact hturn.wf (hctx _ (State.mem_file.mpr (.inr (.inl rfl))))
  · exact hctx c (State.mem_file.mpr (.inr (.inr hc)))

/-! ### Reset (R320, R321) -/

theorem mem_resetContexts {w n : Nat} {l : List Context} {c : Context} (h : c ∈ resetContexts w l n) :
    ∃ m, c = Context.afterReset w m := by
  induction l generalizing n with
  | nil => cases h
  | cons _ rest ih =>
    obtain rfl | h := List.mem_cons.mp h
    · exact ⟨n, rfl⟩
    · exact ih h

/-- After a reset event every context is one right after reset (R40). -/
theorem State.mem_file_resetEvent {s : State} {v : BitVec 64} {c : Context} (h : c ∈ (s.resetEvent v).file) :
    ∃ m, c = Context.afterReset s.env.addrW m := by
  obtain h | rfl | h := State.mem_file.mp h
  · exact mem_resetContexts h
  · exact ⟨_, rfl⟩
  · exact mem_resetContexts h

theorem Context.afterReset_wf (env : Env) (m : Nat) : (Context.afterReset env.addrW m).Wf env :=
  ⟨iff_of_false nofun nofun, nofun, toNat_truncTo_lt _ _, toNat_truncTo_lt _ _, nofun, fun _ => nofun⟩

theorem State.resetEvent_inv {s : State} (h : s.Inv) (v : BitVec 64) : (s.resetEvent v).Inv := by
  obtain ⟨⟨h7, h64, c2, c64, hA, hB, hAB, -⟩, hcanon, hspace, -⟩ := h
  refine ⟨⟨h7, h64, c2, c64, hA, hB, hAB, toNat_truncTo_lt _ _⟩, hcanon, hspace, toNat_truncTo_lt _ _,
    fun h => Bool.noConfusion h, fun c hc => ?_⟩
  obtain ⟨m, rfl⟩ := State.mem_file_resetEvent hc
  exact Context.afterReset_wf (s.resetEvent v).env m

/-- Settles O56, by the cases of a step (`step_next`) and of a turn (`Context.Turn`). -/
theorem stepKeepsInv : Obligations.StepKeepsInv := by
  unfold Obligations.StepKeepsInv
  intro s t hs hstep
  obtain ⟨-, -, rfl⟩ | ⟨v, rest, -, rfl⟩ | ⟨a, b, rest, -, ha, -, rfl⟩ | ⟨k, es, -, -, -, hturn⟩ := step_next hstep
  · exact hs
  · exact State.resetEvent_inv (s := { s with events := rest }) hs v
  · obtain ⟨hwf, hcanon, hspace, hcache⟩ := hs
    refine ⟨hwf, Memory.wf_write _ _ _ hcanon, fun c hc => ?_, hcache⟩
    obtain hc | hc := Memory.mem_write hc
    · rw [hc]; exact ha
    · exact hspace c hc
  · exact hturn.turnsTo.inv (State.turn_inv hs k es)

/-! ## The selection -/

/-- A turn keeps the selection of an open computation, unless it ends in a fault (R130). -/
theorem Context.Turn.selection {env : Env} {c c' : Context} (h : c.Turn env c')
    (hopen : c.phase = .absorb ∨ c.phase = .final) (hc' : c'.phase ≠ .fault) :
    c'.bsel = c.bsel ∧ c'.bselValid = c.bselValid := by
  cases h with
  | keeps _ _ _ _ hs hv => exact ⟨hs, hv⟩
  | goesOn _ _ _ _ hs hv => exact ⟨hs, hv⟩
  | selects hb => obtain h | h := hopen <;> rw [h] at hb <;> cases hb
  | faults _ hp => exact absurd hp hc'

/-- Settles O59, by the cases of a step (`step_next`) and of a turn (`Context.Turn`). -/
theorem selectionFixed : Obligations.SelectionFixed := by
  unfold Obligations.SelectionFixed
  intro s t k c c' hstep hreset hc hopen hc' hrun
  have same (h : t.file = s.file) : c'.bsel = c.bsel ∧ c'.bselValid = c.bselValid := by
    rw [h, hc] at hc'
    cases hc'
    exact ⟨rfl, rfl⟩
  obtain ⟨-, -, rfl⟩ | ⟨v, rest, he, -⟩ | ⟨a, b, rest, -, -, -, rfl⟩ | ⟨j, es, -, -, -, hturn⟩ := step_next hstep
  · exact same rfl
  · exact absurd he (hreset v rest)
  · exact same rfl
  · obtain ⟨hbeside, hctx⟩ := hturn.turnsTo
    rw [← s.turn_file j es] at hc
    obtain rfl | ⟨rfl, rfl⟩ := hbeside.file_getElem hc hc'
    · exact ⟨rfl, rfl⟩
    · exact hctx.selection hopen hrun

end Sys2Proof.Machine
end

section
/-!
PROOFS. From a legal position with an admitted move the machine runs on, and the position stays legal (R29, R75, R128,
R258, R285): reads inside the space have an answer, a micro-operation at its place runs and the place after it is one
again, a command is taken or issued without a stop.
-/

namespace Sys2Proof.Machine

/-- The context in focus stands at a place of a micro-sequence, if it is busy. -/
def State.LegalHere (s : State) : Prop := s.ctx.Legal s.env

/-- The outcome is a next state, legal at the context in focus. -/
def LandsLegal (o : Out) : Prop := ∃ t, o = .next t ∧ t.LegalHere

theorem State.legalHere_of_not_busy {s : State} (hb : s.ctx.busy = false) : s.LegalHere := fun h => by
  rw [hb] at h; cases h

/-! ## Reads inside the address space -/

/-- The operation ends in a value or in a fault of the engine, not in the model's own stop. -/
def Res.Answers {α : Type} (r : Res α) : Prop := ∀ f, r ≠ .stop f

theorem Res.Answers.ok {α : Type} (a : α) : (Res.ok a).Answers := nofun

theorem Res.Answers.bind {α β : Type} {r : Res α} {k : α → Res β} (h : r.Answers)
    (hk : ∀ a, r = .ok a → (k a).Answers) : (r.bind k).Answers := by
  cases r with
  | ok a => exact hk a rfl
  | raise c => exact nofun
  | stop f => exact absurd rfl (h f)

theorem Res.Answers.map {α β : Type} {r : Res α} (h : r.Answers) (f : α → β) : (r.map f).Answers :=
  h.bind fun _ _ => Res.Answers.ok _

theorem State.readByte_answers {s : State} {a : Nat} (h : a < 2 ^ s.env.addrW) : (s.readByte a).Answers := by
  unfold State.readByte
  rw [if_neg (by omega)]
  split_ifs <;> exact nofun

theorem State.memRead_answers {s : State} {a n : Nat} (h : a + n ≤ 2 ^ s.env.addrW) : (s.memRead a n).Answers := by
  induction n generalizing a with
  | zero => exact Res.Answers.ok _
  | succ n ih => exact (State.readByte_answers (by omega)).bind fun _ _ => (ih (by omega)).map _

theorem State.absorb_answers {s : State} {p n : Nat} (h : p + 64 * n ≤ 2 ^ s.env.addrW) (q : Quint) :
    (s.absorb p q n).Answers := by
  induction n generalizing p q with
  | zero => exact Res.Answers.ok _
  | succ n ih => exact (State.memRead_answers (by omega)).bind fun _ _ => ih (by omega) _

theorem State.finalizeTail_answers {s : State} {p n : Nat} (h : p + n % 64 ≤ 2 ^ s.env.addrW) :
    (s.finalizeTail p n).Answers := (State.memRead_answers h).map _

theorem State.hashMessage_answers {s : State} (h : s.ptr + s.len ≤ 2 ^ s.env.addrW) : s.hashMessage.Answers := by
  refine ((State.absorb_answers (by omega) _).map _).bind fun s1 h1 => ?_
  obtain ⟨q, -, rfl⟩ := Res.map_eq_ok.mp h1
  exact (State.finalizeTail_answers (by rw [State.setH_env]; omega)).map _

theorem State.chooseBackend_answers (s : State) (b : Backend) : (s.chooseBackend b).Answers := by
  unfold State.chooseBackend
  split_ifs <;> exact nofun

/-- A command or micro-operation whose reads have an answer ends in its value or in a fault. -/
theorem Res.Answers.finish_runs {r : Res State} (h : r.Answers) (s : State) (code : Byte) : Runs (s.finish code r) := by
  cases r with
  | ok t => exact ⟨t, rfl⟩
  | raise c => exact ⟨_, rfl⟩
  | stop f => exact absurd rfl (h f)

theorem Res.Answers.finish_lands {r : Res State} (h : r.Answers) (hok : ∀ t, r = .ok t → t.LegalHere) (s : State)
    (code : Byte) : LandsLegal (s.finish code r) := by
  cases r with
  | ok t => exact ⟨t, rfl, hok t rfl⟩
  | raise c => exact ⟨_, rfl, State.legalHere_of_not_busy rfl⟩
  | stop f => exact absurd rfl (h f)

/-! ## The current block -/

/-- The selected unit of an engaged context is there (R128). -/
theorem Context.Wf.present {env : Env} {c : Context} (hw : c.Wf env) (hc : c.Engaged) : env.present c.bsel = true := by
  obtain ⟨hvalid, hphase⟩ := hw.of_engaged hc
  obtain ⟨-, -, -, -, -, hpresent⟩ := hw
  exact hpresent hphase hvalid

theorem Context.InBlock.present {env : Env} {c : Context} {b : Backend} (h : c.InBlock env b) (hw : c.Wf env) :
    env.present b = true := by
  obtain ⟨hphase, rfl, -⟩ := h
  exact hw.present (.inr (.inl hphase))

/-- Every full block of the command lies in the address space (R285). -/
theorem Context.BlocksFit.block_le {env : Env} {c : Context} (h : c.BlocksFit env) {n : Nat} (hn : n < c.blockCount) :
    c.opPtr.toNat + 64 * n + 64 ≤ 2 ^ env.addrW := by
  unfold Context.blockCount at hn
  obtain ⟨hcmd, hfit⟩ | ⟨hcmd, hfit⟩ := h
  · rw [hcmd, if_neg (by decide)] at hn; omega
  · rw [if_pos hcmd] at hn; omega

theorem Context.InBlock.blockByte_answers {s : State} {b : Backend} (h : s.ctx.InBlock s.env b) {o : Nat}
    (ho : o < 64) : (s.blockByte o).Answers := by
  obtain ⟨-, -, ⟨-, hblk, hfit⟩ | ⟨hfb, -⟩⟩ := h
  · have := hfit.block_le hblk
    unfold State.blockByte
    split_ifs
    · exact State.readByte_answers (by unfold State.ptr; omega)
    · exact Res.Answers.ok _
  · unfold State.blockByte
    rw [if_neg (by obtain h | h := hfb <;> rw [h] <;> decide)]
    exact Res.Answers.ok _

theorem Context.InBlock.blockWord_answers {s : State} {b : Backend} (h : s.ctx.InBlock s.env b) {o : Nat}
    (ho : o + 4 ≤ 64) : (s.blockWord o).Answers :=
  (h.blockByte_answers (by omega)).bind fun _ _ => (h.blockByte_answers (by omega)).bind fun _ _ =>
    (h.blockByte_answers (by omega)).bind fun _ _ => (h.blockByte_answers (by omega)).map _

theorem Context.InBlock.blockVec_answers {s : State} {b : Backend} (h : s.ctx.InBlock s.env b) {o : Nat}
    (ho : o + 16 ≤ 64) : (s.blockVec o).Answers :=
  (h.blockWord_answers (by omega)).bind fun _ _ => (h.blockWord_answers (by omega)).bind fun _ _ =>
    (h.blockWord_answers (by omega)).bind fun _ _ => (h.blockWord_answers (by omega)).map _

/-- The trailing bytes of FINALIZE or HASH lie in the address space (R285). -/
theorem Context.TailFits.tail_le {s : State} (h : s.ctx.TailFits s.env) : s.tailPtr + s.tailSize ≤ 2 ^ s.env.addrW := by
  unfold State.tailPtr State.tailSize State.ptr State.len
  obtain ⟨hcmd, hfit⟩ | ⟨hcmd, hfit⟩ := h
  · rw [hcmd, if_neg (by decide)]; omega
  · rw [if_pos hcmd]; omega

/-! ## A micro-operation at its place runs -/

theorem onUnitA_runs {s : State} (hA : s.env.hasA = true) {f : State → Out} (h : Runs (f s)) : Runs (s.onUnitA f) := by
  rwa [State.onUnitA, if_pos hA]

theorem onUnitB_runs {s : State} (hB : s.env.hasB = true) {f : State → Out} (h : Runs (f s)) : Runs (s.onUnitB f) := by
  rwa [State.onUnitB, if_pos hB]

theorem scalarRound_runs {s : State} (ht : s.tCount ≤ 79) (stage : Nat) : Runs (s.scalarRound stage) := by
  rw [State.scalarRound, if_pos ht]
  exact ⟨_, rfl⟩

theorem encodeWord_runs {s : State} (h : s.ctx.InEncode) (be : Bool) : Runs (s.encodeWord be) := by
  obtain ⟨-, hk, -⟩ := h
  rw [State.encodeWord, if_pos (by exact hk)]
  exact ⟨_, rfl⟩

theorem exec_runs {i : Instr} {s : State} (hw : s.ctx.Wf s.env) (h : s.ctx.LegalAt s.env i) : Runs (exec i s) := by
  cases i with
  | schedLoad =>
    obtain ⟨hb, ht⟩ := h
    show Runs (execSchedLoad s)
    rw [execSchedLoad, if_pos (by exact ht)]
    exact ((hb.blockWord_answers (by unfold State.tCount; omega)).map _).finish_runs _ _
  | schedExp =>
    obtain ⟨-, ht⟩ := h
    show Runs (if 16 ≤ s.tCount ∧ s.tCount ≤ 79 then _ else _)
    rw [if_pos (by exact ht)]
    exact ⟨_, rfl⟩
  | rndCh =>
    obtain ⟨-, ht⟩ := h
    exact scalarRound_runs (Nat.le_trans ht (by decide)) 0
  | rndPar1 =>
    obtain ⟨-, -, ht⟩ := h
    exact scalarRound_runs (Nat.le_trans ht (by decide)) 1
  | rndMaj =>
    obtain ⟨-, -, ht⟩ := h
    exact scalarRound_runs (Nat.le_trans ht (by decide)) 2
  | rndPar2 =>
    obtain ⟨-, -, ht⟩ := h
    exact scalarRound_runs ht 3
  | vaLdbe =>
    obtain ⟨hb, hg⟩ := h
    show Runs (execVaLdbe s)
    refine onUnitA_runs (hb.present hw) ?_
    rw [if_pos (by exact hg)]
    exact ((hb.blockVec_answers (by unfold State.group; omega)).map _).finish_runs _ _
  | vbLdbe =>
    obtain ⟨hb, hg⟩ := h
    show Runs (execVbLdbe s)
    refine onUnitB_runs (hb.present hw) ?_
    rw [if_pos (by exact hg)]
    exact ((hb.blockVec_answers (by unfold State.group; omega)).map _).finish_runs _ _
  | vaInit | vaAcc =>
    show Runs (s.onUnitA fun s => .next _)
    exact onUnitA_runs (h.present hw) ⟨_, rfl⟩
  | vaSu0 | vaSu1 | vaAddk | vaH | vaR4c | vaR4p | vaR4m =>
    obtain ⟨hb, -⟩ := h
    show Runs (s.onUnitA fun s => .next _)
    exact onUnitA_runs (hb.present hw) ⟨_, rfl⟩
  | vbInit | vbAcc =>
    show Runs (s.onUnitB fun s => .next _)
    exact onUnitB_runs (h.present hw) ⟨_, rfl⟩
  | vbMsg1 | vbXor | vbMsg2 | vbEadd | vbNexte | vbRnds4 =>
    obtain ⟨hb, -⟩ := h
    show Runs (s.onUnitB fun s => .next _)
    exact onUnitB_runs (hb.present hw) ⟨_, rfl⟩
  | padCopy =>
    obtain ⟨⟨-, htail⟩, -⟩ := h
    exact ((State.memRead_answers htail.tail_le).map _).finish_runs _ _
  | encSt => exact encodeWord_runs h true
  | encSwst => exact encodeWord_runs h false
  | wrLoad | feedfwd | padMark | padLen | padZero0 | padZero1 | padZero2 => exact ⟨_, rfl⟩
  | _ => exact h.elim

/-! ## The place after a legal one is legal -/

/-- `c` at position `q`. -/
def Context.atSeq (c : Context) (q : Seq) : Context := { c with seq := q }

/-- No command stands in a micro-sequence. -/
theorem Context.LegalAt.not_isCommand {env : Env} {c : Context} {i : Instr} (h : c.LegalAt env i) :
    i.isCommand = false := by
  cases i with
  | getcaps | select | selectG | selectA | selectB | init | transform | finalize | encode | encodeLE | encodeBE
  | hash => exact h.elim
  | _ => rfl

/-- A position with the code of `i`, at which `i` stands. -/
theorem Context.legal_atSeq {env : Env} {c : Context} {q : Seq} (i : Instr) (hq : q.uir = encode i)
    (h : (c.atSeq q).LegalAt env i) : (c.atSeq q).Legal env := fun _ =>
  ⟨i, hq ▸ decodeMicro_encode h.not_isCommand, h⟩

theorem Context.legal_startBlock {env : Env} {c : Context} {q : Seq} (h : (c.atSeq q).InBlock env c.bsel) :
    (c.atSeq (q.startBlock c.bsel)).Legal env := by
  obtain ⟨hphase, hbsel, hblock⟩ := h
  cases hb : c.bsel with
  | generic => exact Context.legal_atSeq .wrLoad rfl ⟨hphase, hb, hblock⟩
  | accelA => exact Context.legal_atSeq .vaInit rfl ⟨hphase, hb, hblock⟩
  | accelB => exact Context.legal_atSeq .vbInit rfl ⟨hphase, hb, hblock⟩

theorem Context.legal_startPadding {env : Env} {c : Context} {q : Seq} (hphase : c.phase = .absorb)
    (h : (c.atSeq q).TailFits env) (r : Nat) : (c.atSeq (q.startPadding r)).Legal env := by
  refine Context.legal_atSeq .padCopy rfl ⟨⟨hphase, h⟩, ?_⟩
  show (if r + 1 ≤ 56 then (1 : BitVec 2) else 2) = 1 ∨ (if r + 1 ≤ 56 then (1 : BitVec 2) else 2) = 2
  split_ifs <;> simp

theorem Context.legal_startEncode {env : Env} {c : Context} {q : Seq} (hphase : c.phase = .final)
    (hcmd : q.cmd = 0x50 ∨ q.cmd = 0x51 ∨ q.cmd = 0x52 ∨ q.cmd = hashCode) (be : Bool) :
    (c.atSeq (q.startEncode be)).Legal env := by
  have hk : (c.atSeq (q.startEncode be)).InEncode := ⟨hphase, Nat.zero_le 4, hcmd⟩
  cases be with
  | false => exact Context.legal_atSeq .encSwst rfl hk
  | true => exact Context.legal_atSeq .encSt rfl hk

theorem State.toNat_goToT (s : State) (code : Byte) {t : Nat} (ht : t < 128) : (s.goToT code t).ctx.seq.t.toNat = t :=
  Nat.mod_eq_of_lt ht

/-- A loop over `T` from `lo` stays at its operation `i` up to `last`, then stands at `j` (R152). -/
theorem State.legal_loopT {s : State} {code next : Byte} {lo last start : Nat} (hb : s.ctx.InBlock s.env .generic)
    (hlo : lo ≤ s.tCount) (hlast : last < 128) (hstart : start < 128) (i j : Instr) (hi : code = encode i)
    (hj : next = encode j)
    (hagain : ∀ c : Context, c.InBlock s.env .generic → lo ≤ c.seq.t.toNat ∧ c.seq.t.toNat ≤ last → c.LegalAt s.env i)
    (hnext : ∀ c : Context, c.InBlock s.env .generic → c.seq.t.toNat = start → c.LegalAt s.env j) :
    (s.loopT code last next start).LegalHere := by
  unfold State.loopT
  split_ifs with h
  · have ht := s.toNat_goToT code (t := s.tCount + 1) (by omega)
    exact Context.legal_atSeq (c := s.ctx) i hi (hagain (s.goToT code (s.tCount + 1)).ctx hb (by omega))
  · exact Context.legal_atSeq (c := s.ctx) j hj (hnext (s.goToT next start).ctx hb (s.toNat_goToT next hstart))

theorem toNat_group {g : Nat} (hg : g < 20) : (BitVec.ofNat 5 g).toNat = g := Nat.mod_eq_of_lt (by omega)

/-- The start of a group of unit A: VA.SU0 from group 4 on, else VA.ADDK of the group's stage (R193). -/
theorem Context.legal_startGroupA {env : Env} {c : Context} {q : Seq} {g : Nat} (hb : (c.atSeq q).InBlock env .accelA)
    (hg : g < 20) : (c.atSeq (q.startGroupA g)).Legal env := by
  have hgrp : (q.startGroupA g).grp.toNat = g := toNat_group hg
  obtain ⟨haddk, -, hstage⟩ := encode_stage hg
  by_cases h4 : 4 ≤ g
  · refine Context.legal_atSeq .vaSu0 (if_pos h4) ⟨hb, ?_, ?_⟩
    · exact hgrp.symm ▸ h4
    · exact hgrp.symm ▸ Nat.le_of_lt_succ hg
  · refine Context.legal_atSeq (.vaAddk (BitVec.ofNat 2 (g / 5))) ((if_neg h4).trans haddk) ⟨hb, ?_, ?_⟩
    · exact hgrp.symm ▸ Nat.le_of_lt_succ hg
    · exact hstage.trans (congrArg (· / 5) hgrp.symm)

/-- The operation that adds e in group `g` of unit B: VB.EADD in group 0, else VB.NEXTE (R204). -/
theorem Context.legal_eOpB {env : Env} {c : Context} {q : Seq} (hb : (c.atSeq q).InBlock env .accelB)
    (hg : q.grp.toNat ≤ 19) (hq : q.uir = eOpB q.grp.toNat) : (c.atSeq q).Legal env := by
  by_cases h0 : q.grp.toNat = 0
  · exact Context.legal_atSeq .vbEadd (hq.trans (if_pos h0)) ⟨hb, h0⟩
  · exact Context.legal_atSeq .vbNexte (hq.trans (if_neg h0)) ⟨hb, Nat.one_le_iff_ne_zero.mpr h0, hg⟩

/-- The start of a group of unit B: VB.MSG1 from group 4 on, else the operation that adds e (R204). -/
theorem Context.legal_startGroupB {env : Env} {c : Context} {q : Seq} {g : Nat} (hb : (c.atSeq q).InBlock env .accelB)
    (hg : g < 20) : (c.atSeq (q.startGroupB g)).Legal env := by
  have hgrp : (q.startGroupB g).grp.toNat = g := toNat_group hg
  by_cases h4 : 4 ≤ g
  · refine Context.legal_atSeq .vbMsg1 (if_pos h4) ⟨hb, ?_, ?_⟩
    · exact hgrp.symm ▸ h4
    · exact hgrp.symm ▸ Nat.le_of_lt_succ hg
  · refine Context.legal_eOpB hb (hgrp.symm ▸ Nat.le_of_lt_succ hg) ?_
    rw [hgrp, Seq.startGroupB, if_neg h4]

theorem State.legal_afterGroupA {s : State} (hb : s.ctx.InBlock s.env .accelA) : s.afterGroupA.LegalHere := by
  unfold State.afterGroupA
  split_ifs with hg
  · exact Context.legal_startGroupA (c := s.ctx) hb (by omega)
  · exact Context.legal_atSeq (c := s.ctx) .vaAcc rfl hb

theorem State.legal_afterGroupB {s : State} (hb : s.ctx.InBlock s.env .accelB) : s.afterGroupB.LegalHere := by
  unfold State.afterGroupB
  split_ifs with hg
  · exact Context.legal_startGroupB (c := s.ctx) hb (by omega)
  · exact Context.legal_atSeq (c := s.ctx) .vbAcc rfl hb

/-- A padded block in SCRATCH goes to the selected unit (R227). -/
theorem State.legal_toBlock {s : State} (h : s.ctx.InPadding s.env) (hf : s.ctx.seq.fb = 1 ∨ s.ctx.seq.fb = 2) :
    s.toBlock.LegalHere := by
  obtain ⟨hphase, htail⟩ := h
  exact Context.legal_startBlock (c := s.ctx) (q := s.ctx.seq) ⟨hphase, rfl, .inr ⟨hf, htail⟩⟩

theorem State.legal_afterBlocks {s : State} (hphase : s.ctx.phase = .absorb) (h : s.ctx.BlocksFit s.env) :
    s.afterBlocks.LegalHere := by
  unfold State.afterBlocks
  split_ifs with hcmd
  · have hcmd : s.ctx.seq.cmd = hashCode := of_decide_eq_true hcmd
    obtain ⟨hcmd', -⟩ | ⟨-, hfit⟩ := h
    · rw [hcmd] at hcmd'; exact absurd hcmd' (by decide)
    · exact Context.legal_startPadding (c := s.ctx) (q := s.ctx.seq) hphase (.inr ⟨hcmd, hfit⟩) _
  · exact State.legalHere_of_not_busy rfl

theorem State.legal_afterFinal (s : State) : s.afterFinal.LegalHere := by
  unfold State.afterFinal
  dsimp only
  split_ifs with hcmd
  · have hcmd : s.ctx.seq.cmd = hashCode := of_decide_eq_true hcmd
    exact Context.legal_startEncode (c := (s.setPhase .final).ctx) (q := { s.ctx.seq with fb := 0 }) rfl
      (.inr (.inr (.inr hcmd))) s.env.hostBE
  · exact State.legalHere_of_not_busy rfl

/-- After a block: the next full block, the second final block, or what follows the last one (R152, R227). -/
theorem State.legal_afterBlock {s : State} {b : Backend} (h : s.ctx.InBlock s.env b) : s.afterBlock.LegalHere := by
  obtain ⟨hphase, -, hblock⟩ := h
  unfold State.afterBlock
  dsimp only
  split_ifs with hf hnext h2
  · obtain ⟨-, -, hfit⟩ | ⟨hf', -⟩ := hblock
    · have hcount : s.blockCount = s.ctx.blockCount := by
        simp only [State.blockCount, Context.blockCount, State.inHash, decide_eq_true_eq, State.len]
      have hblk : (s.ctx.seq.blk + 1).toNat < s.ctx.blockCount := by
        rw [← hcount, BitVec.toNat_add]
        exact Nat.lt_of_le_of_lt (Nat.mod_le _ _) hnext
      exact Context.legal_startBlock (c := s.ctx) (q := { s.ctx.seq with blk := s.ctx.seq.blk + 1 })
        ⟨hphase, rfl, .inl ⟨hf, hblk, hfit⟩⟩
    · rw [hf] at hf'; exact absurd hf' (by decide)
  · obtain ⟨-, -, hfit⟩ | ⟨hf', -⟩ := hblock
    · exact State.legal_afterBlocks hphase hfit
    · rw [hf] at hf'; exact absurd hf' (by decide)
  · obtain ⟨hf', -⟩ | ⟨-, htail⟩ := hblock
    · exact absurd hf' hf
    · exact Context.legal_atSeq (c := s.ctx) .padZero2 rfl ⟨⟨hphase, htail⟩, rfl⟩
  · exact s.legal_afterFinal

/-- After a digest word: the next one, or the end of the command (R248). -/
theorem State.legal_afterWord {s : State} {code : Byte} (i : Instr) (hi : code = encode i)
    (hat : ∀ c : Context, c.InEncode → c.LegalAt s.env i) (h : s.ctx.InEncode) : (s.afterWord code).LegalHere := by
  obtain ⟨hphase, -, hcmd⟩ := h
  unfold State.afterWord
  split_ifs with hk
  · have hk' : (s.ctx.seq.k5 + 1).toNat ≤ 4 := by
      rw [BitVec.toNat_add]
      exact Nat.le_trans (Nat.mod_le _ _) hk
    exact Context.legal_atSeq (c := s.ctx) i hi (hat _ ⟨hphase, hk', hcmd⟩)
  · exact State.legalHere_of_not_busy rfl
  · exact State.legalHere_of_not_busy rfl

/-- The four rounds of a group of unit A use the function of its stage (R193). -/
theorem State.legal_roundOpA {s : State} (hb : s.ctx.InBlock s.env .accelA) (hg : s.group ≤ 19) :
    (s.goTo (roundOpA s.group)).LegalHere := by
  by_cases h5 : s.group < 5
  · exact Context.legal_atSeq (c := s.ctx) .vaR4c (by simp [roundOpA, groupStageA, h5, encode]) ⟨hb, h5⟩
  by_cases hmaj : 10 ≤ s.group ∧ s.group < 15
  · exact Context.legal_atSeq (c := s.ctx) .vaR4m (by simp [roundOpA, groupStageA, h5, hmaj, encode]) ⟨hb, hmaj⟩
  · have hpar : (5 ≤ s.group ∧ s.group < 10) ∨ (15 ≤ s.group ∧ s.group ≤ 19) := by omega
    exact Context.legal_atSeq (c := s.ctx) .vaR4p (by simp [roundOpA, groupStageA, h5, hmaj, encode]) ⟨hb, hpar⟩

/-- The four rounds of a group of unit B (R204). -/
theorem State.legal_rounds {s : State} (hb : s.ctx.InBlock s.env .accelB) (hg : s.group ≤ 19) :
    (s.goTo (0xB4 + BitVec.ofNat 8 (s.group / 5))).LegalHere := by
  obtain ⟨-, hrnds, hstage⟩ := encode_stage (Nat.lt_succ_of_le hg)
  exact Context.legal_atSeq (c := s.ctx) (.vbRnds4 (BitVec.ofNat 2 (s.group / 5))) hrnds ⟨hb, hg, hstage⟩

theorem toNat_grp_add_one {g : BitVec 5} (hg : g.toNat < 3) : (g + 1).toNat ≤ 3 := by
  rw [BitVec.toNat_add]
  exact Nat.le_trans (Nat.mod_le _ _) hg

theorem advance_legal {i : Instr} {s : State} (hi : decodeMicro s.ctx.seq.uir = some i) (h : s.ctx.LegalAt s.env i) :
    (advance i s).LegalHere := by
  cases i with
  | wrLoad => exact Context.legal_atSeq (c := s.ctx) .schedLoad rfl ⟨h, Nat.zero_le 15⟩
  | schedLoad =>
    obtain ⟨hb, -⟩ := h
    exact State.legal_loopT hb (Nat.zero_le _) (by decide) (by decide) .schedLoad .schedExp rfl rfl
      (fun _ hb ht => ⟨hb, ht.2⟩) fun _ hb ht => ⟨hb, by omega⟩
  | schedExp =>
    obtain ⟨hb, hlo, -⟩ := h
    exact State.legal_loopT hb hlo (by decide) (by decide) .schedExp .rndCh rfl rfl
      (fun _ hb ht => ⟨hb, ht⟩) fun _ hb ht => ⟨hb, by omega⟩
  | rndCh =>
    obtain ⟨hb, -⟩ := h
    exact State.legal_loopT hb (Nat.zero_le _) (by decide) (by decide) .rndCh .rndPar1 rfl rfl
      (fun _ hb ht => ⟨hb, ht.2⟩) fun _ hb ht => ⟨hb, by omega⟩
  | rndPar1 =>
    obtain ⟨hb, hlo, -⟩ := h
    exact State.legal_loopT hb hlo (by decide) (by decide) .rndPar1 .rndMaj rfl rfl
      (fun _ hb ht => ⟨hb, ht⟩) fun _ hb ht => ⟨hb, by omega⟩
  | rndMaj =>
    obtain ⟨hb, hlo, -⟩ := h
    exact State.legal_loopT hb hlo (by decide) (by decide) .rndMaj .rndPar2 rfl rfl
      (fun _ hb ht => ⟨hb, ht⟩) fun _ hb ht => ⟨hb, by omega⟩
  | rndPar2 =>
    obtain ⟨hb, hlo, -⟩ := h
    exact State.legal_loopT hb hlo (by decide) (by decide) .rndPar2 .feedfwd rfl rfl
      (fun _ hb ht => ⟨hb, ht⟩) fun _ hb _ => hb
  | feedfwd | vaAcc | vbAcc => exact State.legal_afterBlock h
  | vaInit => exact Context.legal_atSeq (c := s.ctx) .vaLdbe rfl ⟨h, Nat.zero_le 3⟩
  | vaLdbe =>
    obtain ⟨hb, -⟩ := h
    show State.LegalHere (if s.group < 3 then _ else _)
    split_ifs with hg
    · exact fun _ => ⟨.vaLdbe, hi, hb, toNat_grp_add_one hg⟩
    · exact Context.legal_startGroupA (c := s.ctx) hb (by decide)
  | vaSu0 => exact Context.legal_atSeq (c := s.ctx) .vaSu1 rfl h
  | vaSu1 =>
    obtain ⟨hb, -, hg⟩ := h
    obtain ⟨haddk, -, hstage⟩ := encode_stage (Nat.lt_succ_of_le hg)
    exact Context.legal_atSeq (c := s.ctx) (.vaAddk (BitVec.ofNat 2 (s.group / 5))) haddk ⟨hb, hg, hstage⟩
  | vaAddk k =>
    obtain ⟨hb, hg, -⟩ := h
    exact Context.legal_atSeq (c := s.ctx) .vaH rfl ⟨hb, hg⟩
  | vaH =>
    obtain ⟨hb, hg⟩ := h
    exact State.legal_roundOpA hb hg
  | vaR4c | vaR4p | vaR4m => exact State.legal_afterGroupA h.1
  | vbInit => exact Context.legal_atSeq (c := s.ctx) .vbLdbe rfl ⟨h, Nat.zero_le 3⟩
  | vbLdbe =>
    obtain ⟨hb, -⟩ := h
    show State.LegalHere (if s.group < 3 then _ else _)
    split_ifs with hg
    · exact fun _ => ⟨.vbLdbe, hi, hb, toNat_grp_add_one hg⟩
    · exact Context.legal_startGroupB (c := s.ctx) hb (by decide)
  | vbMsg1 => exact Context.legal_atSeq (c := s.ctx) .vbXor rfl h
  | vbXor => exact Context.legal_atSeq (c := s.ctx) .vbMsg2 rfl h
  | vbMsg2 =>
    obtain ⟨hb, -, hg⟩ := h
    exact Context.legal_eOpB (c := s.ctx) hb hg rfl
  | vbEadd =>
    obtain ⟨hb, hg⟩ := h
    exact State.legal_rounds hb (Nat.le_trans (Nat.le_of_eq hg) (Nat.zero_le 19))
  | vbNexte =>
    obtain ⟨hb, -, hg⟩ := h
    exact State.legal_rounds hb hg
  | vbRnds4 => exact State.legal_afterGroupB h.1
  | padCopy => exact Context.legal_atSeq (c := s.ctx) .padMark rfl h
  | padMark =>
    obtain ⟨hpad, hf⟩ := h
    show State.LegalHere (s.goTo (if s.ctx.seq.fb = 2 then 0xC5 else 0xC4))
    split_ifs with h2
    · exact Context.legal_atSeq (c := s.ctx) .padZero1 rfl ⟨hpad, h2⟩
    · exact Context.legal_atSeq (c := s.ctx) .padZero0 rfl ⟨hpad, hf.resolve_right h2⟩
  | padZero0 | padZero2 => exact Context.legal_atSeq (c := s.ctx) .padLen rfl h
  | padZero1 => exact State.legal_toBlock h.1 (.inr h.2)
  | padLen => exact State.legal_toBlock h.1 (.inl h.2)
  | encSt => exact State.legal_afterWord .encSt rfl (fun _ h => h) h
  | encSwst => exact State.legal_afterWord .encSwst rfl (fun _ h => h) h
  | _ => exact h.elim

/-- A micro-step from a legal position runs and leads to a legal one, or ends the command. -/
theorem microStep_lands {s : State} (hw : s.ctx.Wf s.env) (hb : s.ctx.busy = true) (hl : s.LegalHere) :
    LandsLegal (microStep s) := by
  obtain ⟨i, hi, hat⟩ := hl hb
  obtain ⟨t, ht⟩ := exec_runs hw hat
  refine ⟨if t.ctx.busy then advance i t else t, by simp only [microStep, hi, ht], ?_⟩
  obtain ⟨h, d, u, rfl⟩ | ⟨c, code, rfl⟩ := exec_setsOrFaults hat.not_isCommand s t ht
  · rw [if_pos hb]
    exact advance_legal hi hat
  · exact State.legalHere_of_not_busy rfl

/-! ## A command on a context that is not busy -/

theorem takeFault_lands (s : State) (c : Cause) (code : Byte) : LandsLegal (.next (s.takeFault c code)) :=
  ⟨_, rfl, State.legalHere_of_not_busy rfl⟩

/-- A command that ends once its reads have an answer. -/
theorem retire_lands {r : Res State} (h : r.Answers) (s : State) (code : Byte) :
    LandsLegal (s.finish code (r.map State.retire)) :=
  (h.map _).finish_lands (fun t ht => by
    obtain ⟨u, -, rfl⟩ := Res.map_eq_ok.mp ht
    exact State.legalHere_of_not_busy rfl) s code

/-- Phase ABSORB has a unit that is there: no command stops on an absent one (R128). -/
theorem Context.Wf.present_of_absorb {env : Env} {c : Context} (hw : c.Wf env) (hp : c.phase = .absorb) :
    ¬(!env.present c.bsel) = true := by
  rw [hw.present (.inr (.inl hp))]; decide

theorem State.fits_of_transformCheck {s : State} (h : s.transformCheck = none) :
    s.ptr + 64 * s.len ≤ 2 ^ s.env.addrW := (acceptCheck_eq_none.mp h).2.2

theorem State.fits_of_finalizeCheck {s : State} (h : s.finalizeCheck = none) :
    s.ptr + s.len % 64 ≤ 2 ^ s.env.addrW := (acceptCheck_eq_none.mp h).2.2

theorem State.fits_of_hashCheck {s : State} (h : s.hashCheck = none) : s.ptr + s.len ≤ 2 ^ s.env.addrW :=
  (acceptCheck_eq_none.mp h).2.2

/-- HASH, prepared: the computation is open, the operands as they were (R255). -/
theorem State.ctx_of_hashPrepare {s t : State} (h : s.hashPrepare = .ok t) :
    t.ctx.phase = .absorb ∧ t.ptr = s.ptr ∧ t.len = s.len ∧ t.env = s.env := by
  obtain rfl := State.hashPrepare_eq_ok h
  obtain ⟨hctx, -⟩ := s.fillCaps_ctx_mem
  refine ⟨rfl, ?_, ?_, s.beside_fillCaps.1⟩ <;>
    simp only [State.ptr, State.len, State.startComputation, State.setBackend, hctx]

/-- Preparing HASH reads no host memory. -/
theorem State.hashPrepare_answers (s : State) : s.hashPrepare.Answers := (State.chooseBackend_answers _ _).map _

section Commands

variable {s : State} (hb : s.ctx.busy = false)

include hb

theorem next_lands : LandsLegal (.next s) := ⟨s, rfl, State.legalHere_of_not_busy hb⟩

theorem onCommand_lands {body : State → Out} (h : s.Ready → LandsLegal (body s)) : LandsLegal (s.onCommand body) := by
  by_cases hp : s.ctx.phase = .fault
  · rw [State.onCommand_faulted hp]; exact next_lands hb
  · rw [State.onCommand_ready ⟨hb, hp⟩]; exact h ⟨hb, hp⟩

theorem chooseBackend_lands (t : Backend) (code : Byte) : LandsLegal (s.finish code (s.chooseBackend t)) := by
  refine (s.chooseBackend_answers t).finish_lands (fun u hu => ?_) _ _
  obtain ⟨-, rfl⟩ := State.chooseBackend_eq_ok.mp hu
  exact State.legalHere_of_not_busy hb

theorem forceBackend_lands (t : Backend) (code : Byte) : LandsLegal (s.forceBackend t code) :=
  onCommand_lands hb fun _ => by
    split_ifs
    · exact chooseBackend_lands hb t code
    · exact takeFault_lands s _ _

theorem execSelect_lands : LandsLegal (execSelect s) :=
  onCommand_lands hb fun _ => by
    split_ifs
    · exact chooseBackend_lands hb _ _
    · exact takeFault_lands s _ _

theorem execGetcaps_lands : LandsLegal (execGetcaps s) :=
  onCommand_lands hb fun _ => next_lands (by rw [s.fillCaps_ctx_mem.1, hb])

theorem execInit_lands : LandsLegal (execInit s) :=
  onCommand_lands hb fun _ => by
    split_ifs
    · exact ⟨_, rfl, State.legalHere_of_not_busy hb⟩
    · exact takeFault_lands s _ _

theorem encodeBy_lands (be : Bool) (code : Byte) : LandsLegal (s.encodeBy be code) :=
  onCommand_lands hb fun _ => by
    split_ifs
    · exact ⟨_, rfl, State.legalHere_of_not_busy rfl⟩
    · exact takeFault_lands s _ _

theorem execTransform_lands (hw : s.ctx.Wf s.env) : LandsLegal (execTransform s) :=
  onCommand_lands hb fun _ => by
    split
    · exact takeFault_lands s _ _
    · rename_i hcheck
      split_ifs with _ hp
      · exact next_lands hb
      · exact absurd hp (hw.present_of_absorb (State.phase_of_transformCheck hcheck))
      · exact retire_lands ((State.absorb_answers (State.fits_of_transformCheck hcheck) _).map _) s _

theorem execFinalize_lands (hw : s.ctx.Wf s.env) : LandsLegal (execFinalize s) :=
  onCommand_lands hb fun _ => by
    split
    · exact takeFault_lands s _ _
    · rename_i hcheck
      split_ifs with hp
      · exact absurd hp (hw.present_of_absorb (State.phase_of_finalizeCheck hcheck))
      · exact retire_lands (State.finalizeTail_answers (State.fits_of_finalizeCheck hcheck)) s _

theorem execHash_lands : LandsLegal (execHash s) :=
  onCommand_lands hb fun _ => by
    split
    · exact takeFault_lands s _ _
    rename_i hcheck
    split
    · exact takeFault_lands _ _ _
    · exact absurd ‹s.hashPrepare = _› (s.hashPrepare_answers _)
    · rename_i s1 h1
      obtain ⟨-, hptr, hlen, henv⟩ := State.ctx_of_hashPrepare h1
      refine retire_lands (State.hashMessage_answers ?_) s1 _
      rw [hptr, hlen, henv]
      exact State.fits_of_hashCheck hcheck

theorem exec_lands (hw : s.ctx.Wf s.env) {i : Instr} (hi : i.isCommand = true) : LandsLegal (exec i s) := by
  cases i with
  | getcaps => exact execGetcaps_lands hb
  | select => exact execSelect_lands hb
  | selectG => exact forceBackend_lands hb .generic 0x11
  | selectA => exact forceBackend_lands hb .accelA 0x12
  | selectB => exact forceBackend_lands hb .accelB 0x13
  | init => exact execInit_lands hb
  | transform => exact execTransform_lands hb hw
  | finalize => exact execFinalize_lands hb hw
  | encode => exact encodeBy_lands hb s.env.hostBE 0x50
  | encodeLE => exact encodeBy_lands hb false 0x51
  | encodeBE => exact encodeBy_lands hb true 0x52
  | hash => exact execHash_lands hb
  | _ => cases hi

/-! An issued command stands at the first place of its micro-sequence (R29). -/

theorem issueTransform_lands (hw : s.ctx.Wf s.env) : LandsLegal s.issueTransform :=
  onCommand_lands hb fun _ => by
    split
    · exact takeFault_lands s _ _
    · rename_i hcheck
      split_ifs with h0 hp
      · exact next_lands hb
      · exact absurd hp (hw.present_of_absorb (State.phase_of_transformCheck hcheck))
      · exact ⟨_, rfl, Context.legal_startBlock (c := { s.ctx with busy := true }) (q := Seq.start 0x30)
          ⟨State.phase_of_transformCheck hcheck, rfl,
            .inl ⟨rfl, Nat.pos_of_ne_zero h0, .inl ⟨rfl, State.fits_of_transformCheck hcheck⟩⟩⟩⟩

theorem issueFinalize_lands (hw : s.ctx.Wf s.env) : LandsLegal s.issueFinalize :=
  onCommand_lands hb fun _ => by
    split
    · exact takeFault_lands s _ _
    · rename_i hcheck
      split_ifs with hp
      · exact absurd hp (hw.present_of_absorb (State.phase_of_finalizeCheck hcheck))
      · exact ⟨_, rfl, Context.legal_startPadding (c := { s.ctx with busy := true }) (q := Seq.start 0x40)
          (State.phase_of_finalizeCheck hcheck) (.inl ⟨rfl, State.fits_of_finalizeCheck hcheck⟩) _⟩

theorem issueEncode_lands (be : Bool) {code : Byte} (hcode : code = 0x50 ∨ code = 0x51 ∨ code = 0x52) :
    LandsLegal (s.issueEncode be code) :=
  onCommand_lands hb fun _ => by
    split_ifs with hp
    · exact ⟨_, rfl, Context.legal_startEncode (c := { s.ctx with busy := true }) (q := Seq.start code) hp
        (hcode.imp_right fun h => h.imp_right .inl) be⟩
    · exact takeFault_lands s _ _

theorem issueHash_lands : LandsLegal s.issueHash :=
  onCommand_lands hb fun _ => by
    split
    · exact takeFault_lands s _ _
    rename_i hcheck
    split
    · exact takeFault_lands _ _ _
    · exact absurd ‹s.hashPrepare = _› (s.hashPrepare_answers _)
    · rename_i s1 h1
      obtain ⟨hphase, hptr, hlen, henv⟩ := State.ctx_of_hashPrepare h1
      have hfit : s1.ptr + s1.len ≤ 2 ^ s1.env.addrW := by
        rw [hptr, hlen, henv]
        exact State.fits_of_hashCheck hcheck
      refine ⟨_, rfl, ?_⟩
      split_ifs with h0
      · exact Context.legal_startPadding (c := { s1.ctx with busy := true }) (q := Seq.start hashCode) hphase
          (.inr ⟨rfl, hfit⟩) _
      · exact Context.legal_startBlock (c := { s1.ctx with busy := true }) (q := Seq.start hashCode)
          ⟨hphase, rfl, .inl ⟨rfl, Nat.pos_of_ne_zero h0, .inr ⟨rfl, hfit⟩⟩⟩

theorem issue_lands (hw : s.ctx.Wf s.env) {i : Instr} (hi : i.isCommand = true) : LandsLegal (issue i s) := by
  cases i with
  | transform => exact issueTransform_lands hb hw
  | finalize => exact issueFinalize_lands hb hw
  | encode => exact issueEncode_lands hb s.env.hostBE (.inl rfl)
  | encodeLE => exact issueEncode_lands hb false (.inr (.inl rfl))
  | encodeBE => exact issueEncode_lands hb true (.inr (.inr rfl))
  | hash => exact issueHash_lands hb
  | getcaps | select | selectG | selectA | selectB | init => exact exec_lands hb hw hi
  | _ => cases hi

end Commands

/-! ## Moves -/

theorem writeCmd_lands {s : State} {run : Instr → State → Out} (hb : s.ctx.busy = false)
    (hrun : ∀ i, i.isCommand = true → LandsLegal (run i s)) (c : Byte) : LandsLegal (writeCmd run c s) := by
  unfold writeCmd
  split_ifs
  · exact next_lands hb
  · split
    · exact hrun _ (isCommand_of_decodeCommand ‹_›)
    · exact takeFault_lands s _ _

/-- An admitted write (R33). -/
theorem writeReg_lands {s : State} (hw : s.ctx.Wf s.env) (hb : s.ctx.busy = false) {reg : Nat}
    (hreg : HostReg.writable reg = true) (v : BitVec 64) : LandsLegal (writeReg reg v s) := by
  unfold HostReg.writable at hreg
  unfold writeReg
  cases h : HostReg.ofNumber reg with
  | none => rw [h] at hreg; cases hreg
  | some r =>
    cases r with
    | cmd => exact writeCmd_lands hb (fun i hi => exec_lands hb hw hi) _
    | opPtr | opLen => exact ⟨_, rfl, State.legalHere_of_not_busy hb⟩
    | status | caps | fcmd | digest => rw [h] at hreg; cases hreg

/-- An admitted read reads the register that the number names (R33). -/
theorem readMove_of_readable {n : Nat} (h : HostReg.readable n = true) (s : State) :
    ∃ r, HostReg.ofNumber n = some r ∧ readMove n s = .next (s.readReg r) := by
  unfold HostReg.readable at h
  unfold readMove
  cases hn : HostReg.ofNumber n with
  | none => rw [hn] at h; cases h
  | some r =>
    cases r with
    | cmd => rw [hn] at h; cases h
    | status | opPtr | opLen | caps | fcmd | digest => exact ⟨_, rfl, rfl⟩

theorem readMove_lands {s : State} (hl : s.LegalHere) {reg : Nat} (hreg : HostReg.readable reg = true) :
    LandsLegal (readMove reg s) := by
  obtain ⟨r, -, hread⟩ := readMove_of_readable hreg s
  exact ⟨_, hread, hl⟩

/-- The context in focus is an entry of the register file. -/
theorem State.ctx_mem_file (s : State) : s.ctx ∈ s.file := State.mem_file.mpr (.inr (.inl rfl))

theorem State.Inv.ctx_wf {s : State} (hs : s.Inv) : s.ctx.Wf s.env := by
  obtain ⟨-, -, -, -, -, hctx⟩ := hs
  exact hctx _ s.ctx_mem_file

/-- The first busy context is busy. -/
theorem State.busy_of_firstBusy {s : State} {k : Nat} (h : s.firstBusy = some k) : (s.focus k).ctx.busy = true := by
  obtain ⟨hlt, hb, -⟩ := List.findIdx?_eq_some_iff_getElem.mp h
  have hc := State.focus_ctx (s := s) (k := k) (by simpa using hlt)
  rw [List.getElem?_eq_getElem hlt] at hc
  rw [← Option.some.inj hc]
  exact hb

section Turns

variable {s : State} (hs : s.Inv) (hl : s.Legal)

include hl in
/-- A turn begins at a legal position. -/
theorem State.turn_legal (k : Nat) (es : List Event) : (s.turn k es).LegalHere := by
  obtain ⟨henv, -⟩ := s.focus_other k
  unfold State.LegalHere
  rw [show (s.turn k es).env = s.env from henv]
  exact hl _ (s.turn_file k es ▸ (s.turn k es).ctx_mem_file)

include hs hl

/-- The turn of a busy context. -/
theorem focus_microStep_lands (k : Nat) (hb : (s.focus k).ctx.busy = true) : LandsLegal (microStep (s.focus k)) := by
  rw [← s.turn_events k] at hb ⊢
  exact microStep_lands (State.turn_inv hs k _).ctx_wf hb (State.turn_legal hl k _)

/-- A move that waits for `BUSY = 0` (R331). -/
theorem whenFree_lands {k : Nat} (hk : k < s.numCtx) {rest : List Event} {f : State → Out}
    (hf : (s.turn k rest).ctx.busy = false → LandsLegal (f (s.turn k rest))) : LandsLegal (whenFree k rest s f) := by
  rw [whenFree, onContext, if_pos hk]
  split_ifs with hb
  · exact focus_microStep_lands hs hl k hb
  · exact hf (Bool.eq_false_iff.mpr hb)

/-- A step with an admitted next move runs, legal at the context in focus. -/
theorem step_lands (hmove : ∀ e rest, s.events = e :: rest → Event.wf s.numCtx s.env.addrW e = true ∧
    ∀ a b, e = .store a b → s.bufferInUse a = false) : LandsLegal (step s) := by
  have here : s.LegalHere := hl _ s.ctx_mem_file
  unfold step
  cases he : s.events with
  | nil =>
    show LandsLegal (runOn s)
    unfold runOn
    cases hk : s.firstBusy with
    | none => exact ⟨s, rfl, here⟩
    | some k => exact focus_microStep_lands hs hl k (State.busy_of_firstBusy hk)
  | cons e rest =>
    obtain ⟨hwf, hfree⟩ := hmove e rest he
    have wf (k : Nat) : (s.turn k rest).ctx.Wf (s.turn k rest).env := (State.turn_inv hs k rest).ctx_wf
    cases e with
    | write k reg v =>
      obtain ⟨hk, hreg⟩ := Bool.and_eq_true_iff.mp hwf
      show LandsLegal (if HostReg.writable reg then _ else _)
      rw [if_pos hreg]
      exact whenFree_lands hs hl (of_decide_eq_true hk) fun hb => writeReg_lands (wf k) hb hreg v
    | issue k c =>
      exact whenFree_lands hs hl (of_decide_eq_true hwf) fun hb =>
        writeCmd_lands hb (fun i hi => issue_lands hb (wf k) hi) c
    | read k reg =>
      obtain ⟨hk, hreg⟩ := Bool.and_eq_true_iff.mp hwf
      show LandsLegal (onContext k s fun u => readMove reg { u with events := rest })
      rw [onContext, if_pos (of_decide_eq_true hk)]
      exact readMove_lands (State.turn_legal hl k rest) hreg
    | wait k =>
      show LandsLegal (whenFree k rest s fun u => .next (u.readReg .status))
      exact whenFree_lands hs hl (of_decide_eq_true hwf) fun hb => ⟨_, rfl, State.turn_legal hl k rest⟩
    | tick k =>
      show LandsLegal (if k < s.numCtx then
        (if (s.turn k rest).ctx.busy then microStep (s.turn k rest) else .next (s.turn k rest)) else _)
      rw [if_pos (of_decide_eq_true hwf)]
      split_ifs with hb
      · exact microStep_lands (wf k) hb (State.turn_legal hl k rest)
      · exact ⟨_, rfl, State.turn_legal hl k rest⟩
    | store a b =>
      have hspace : a < 2 ^ s.env.addrW := of_decide_eq_true hwf
      have hbuf : ({ s with events := rest } : State).bufferInUse a = false := hfree a b rfl
      show LandsLegal (storeMove a b _)
      rw [storeMove, if_neg (Nat.not_le.mpr hspace), hbuf]
      exact ⟨_, rfl, here⟩
    | reset v => exact ⟨_, rfl, State.legalHere_of_not_busy rfl⟩

end Turns

/-- A turn that ends legal at the context in focus ends legal at every context. -/
theorem State.TurnsTo.legal {s t : State} (h : s.TurnsTo t) (hl : s.Legal) (ht : t.LegalHere) : t.Legal := by
  obtain ⟨⟨henv, -, hbefore, hafter, -⟩, -⟩ := h
  intro c hc
  rw [State.mem_file, hbefore, hafter] at hc
  obtain hc | rfl | hc := hc
  · exact henv ▸ hl c (State.mem_file.mpr (.inl hc))
  · exact ht
  · exact henv ▸ hl c (State.mem_file.mpr (.inr (.inr hc)))

theorem State.legal_of_step {s t : State} (hl : s.Legal) (h : step s = .next t) (ht : t.LegalHere) : t.Legal := by
  obtain ⟨-, -, rfl⟩ | ⟨v, rest, -, rfl⟩ | ⟨a, b, rest, -, -, -, rfl⟩ | ⟨k, es, -, -, -, hturn⟩ := step_next h
  · exact hl
  · intro c hc
    obtain ⟨m, rfl⟩ := State.mem_file_resetEvent hc
    exact nofun
  · exact hl
  · refine hturn.turnsTo.legal (fun c hc => ?_) ht
    rw [s.turn_file] at hc
    rw [show (s.turn k es).env = s.env from (s.focus_other k).1]
    exact hl c hc

/-- Settles O57: the step runs and is legal at the context in focus (`step_lands`), and every other context stays at
its place (`State.legal_of_step`). -/
theorem stepRunsOn : Obligations.StepRunsOn := by
  unfold Obligations.StepRunsOn
  intro s hs hl hmove
  obtain ⟨t, ht, here⟩ := step_lands hs hl hmove
  exact ⟨t, ht, State.legal_of_step hl ht here⟩

end Sys2Proof.Machine
end

section
/-!
PROOFS. The moves one by one: a store by another agent (R39, R57), an operand write and a register read (R33), the turn
of a busy context (R29); STATUS (R32); the state after reset (R40); where the model stops a micro-operation.
-/

namespace Sys2Proof.Machine

/-! ## The next move -/

theorem step_cons {s : State} {e : Event} {rest : List Event} (he : s.events = e :: rest) :
    step s = applyEvent e rest s := by
  unfold step; rw [he]

/-- A move that waits for `BUSY = 0` of a context that is not busy happens. -/
theorem whenFree_of_not_busy {s : State} {k : Nat} (hk : k < s.numCtx) (hb : (s.focus k).ctx.busy = false)
    (rest : List Event) (f : State → Out) : whenFree k rest s f = f (s.turn k rest) := by
  rw [whenFree, onContext, if_pos hk, hb]
  exact if_neg Bool.false_ne_true

/-! ## Stores (R39, R57) -/

/-- Settles O9: outside the space, inside a running command's range, and everywhere else. -/
theorem storeMoves : Obligations.StoreMoves := by
  unfold Obligations.StoreMoves
  intro s a b rest he
  have hstep : step s = storeMove a b { s with events := rest } := step_cons he
  rw [hstep]
  unfold storeMove
  refine ⟨fun hout => if_pos hout, fun hin huse => ?_, fun hin hfree hwf => ?_⟩
  · rw [if_neg (Nat.not_le.mpr hin), if_pos (by exact huse)]
  · rw [if_neg (Nat.not_le.mpr hin), if_neg (by exact Bool.eq_false_iff.mp hfree)]
    refine ⟨_, rfl, rfl, Memory.wf_write _ a b hwf, fun a' => ?_⟩
    split_ifs with ha
    · rw [ha]; exact Memory.read_write_same _ a b hwf
    · exact Memory.read_write_other _ a a' b hwf ha

/-! ## The turn of a busy context (R29, R330) -/

theorem microStep_of_decode {s : State} {i : Instr} (hi : decodeMicro s.ctx.seq.uir = some i) :
    microStep s = match exec i s with
      | .next t => .next (if t.ctx.busy then advance i t else t)
      | .fault f => .fault f
      | .refused r => .refused r := by
  cases hx : exec i s <;> simp only [microStep, hi, hx]

/-- Settles O4: at a tick, and as the first busy context with no move to come. -/
theorem stepRunsMicroOperation : Obligations.StepRunsMicroOperation := by
  unfold Obligations.StepRunsMicroOperation
  intro s k i hk hb hi
  refine ⟨fun rest he => ?_, fun he hfirst => ?_⟩
  · have hstep : step s = microStep (s.turn k rest) := by
      rw [step_cons he]
      exact (if_pos hk).trans (if_pos hb)
    rw [hstep]
    exact microStep_of_decode (s := s.turn k rest) hi
  · have hstep : step s = microStep (s.focus k) := by
      unfold step runOn
      rw [he, hfirst]
    rw [hstep]
    exact microStep_of_decode hi

/-! ## Register writes and reads (R33) -/

/-- Settles O6, for each of the two operand registers. -/
theorem operandWrites : Obligations.OperandWrites := by
  unfold Obligations.OperandWrites
  intro s k v rest hk hb
  obtain ⟨henv, -⟩ := s.focus_other k
  have hstep (reg : Nat) (hreg : HostReg.writable reg = true) (he : s.events = .write k reg v :: rest) :
      step s = writeReg reg v (s.turn k rest) := by
    rw [step_cons he]
    exact (if_pos hreg).trans (whenFree_of_not_busy hk hb rest _)
  rw [← henv]
  exact ⟨fun he => hstep 2 rfl he, fun he => hstep 3 rfl he⟩

theorem readMove_of_not_readable {n : Nat} (h : HostReg.readable n = false) (s : State) :
    readMove n s = .refused .noSuchAccess := by
  unfold HostReg.readable at h
  unfold readMove
  cases hn : HostReg.ofNumber n with
  | none => rfl
  | some r =>
    cases r with
    | cmd => rfl
    | status | opPtr | opLen | caps | fcmd | digest => rw [hn] at h; cases h

/-- The register numbers of the digest bytes. -/
theorem HostReg.ofNumber_digest {i : Nat} (h : i < 20) : HostReg.ofNumber (32 + i) = some (.digest ⟨i, h⟩) := by
  unfold HostReg.ofNumber
  rw [if_neg (by omega), if_neg (by omega), if_neg (by omega), if_neg (by omega), if_neg (by omega),
    if_neg (by omega), dif_pos (by omega)]
  simp

/-- Settles O8: the register that the number names, and its value where the spec gives one. -/
theorem registerReads : Obligations.RegisterReads := by
  unfold Obligations.RegisterReads
  intro s k n rest he hk
  have hstep : step s = readMove n (s.turn k rest) := by
    rw [step_cons he]
    exact if_pos hk
  rw [hstep]
  refine ⟨fun hn => readMove_of_not_readable hn _, fun hn => ?_⟩
  obtain ⟨r, hr, hread⟩ := readMove_of_readable hn (s.turn k rest)
  obtain ⟨-, hvalid, hcaps, -⟩ := s.focus_other k
  have value {q : HostReg} (hq : HostReg.ofNumber n = some q) {x : BitVec 64} (hx : (s.turn k rest).regValue q = x) :
      (s.turn k rest).regValue r = x := by
    rw [hr] at hq
    cases hq
    exact hx
  refine ⟨_, hread, rfl, ?_, ?_, ?_, ?_, ?_, ?_⟩
  · rintro rfl; exact value (q := .status) rfl rfl
  · rintro rfl; exact value (q := .opPtr) rfl rfl
  · rintro rfl; exact value (q := .opLen) rfl rfl
  · rintro rfl hv
    exact value (q := .caps) rfl ((if_pos (hvalid.trans hv)).trans hcaps)
  · rintro rfl hf
    refine value (q := .fcmd) rfl (congrArg (BitVec.setWidth 64) (if_pos ?_))
    exact Option.isSome_iff_ne_none.mpr hf
  · rintro i hi rfl hphase hb
    exact value (HostReg.ofNumber_digest hi) (congrArg (BitVec.setWidth 64) (if_pos ⟨hphase, hb⟩))

/-! ## STATUS (R32) -/

/-- Settles O7: each field is one part of the concatenation `State.status`. -/
theorem statusFields : Obligations.StatusFields := by
  unfold Obligations.StatusFields
  intro s
  unfold State.status
  dsimp only
  simp (disch := omega) only [BitVec.extractLsb'_append_eq_of_add_le, BitVec.extractLsb'_append_eq_of_le]
  have whole {n : Nat} (x : BitVec n) : x.extractLsb' 0 n = x := BitVec.extractLsb'_eq_self
  refine ⟨(whole _).trans ?_, whole _, (whole _).trans ?_, whole _, whole _, fun hv => (whole _).trans ?_, whole _,
    whole _, whole _, whole _⟩
  · cases s.ctx.phase <;> rfl
  · cases s.ctx.fault with
    | none => rfl
    | some c => cases c <;> rfl
  · rw [if_pos hv]
    cases s.ctx.bsel <;> rfl

/-! ## Reset (R40) -/

theorem mem_file_reset {c : Context} (h : c ∈ State.reset.file) : c = Context.reset := by
  simpa [State.file, State.reset] using h

/-- Settles O10. -/
theorem resetState : Obligations.ResetState := by
  unfold Obligations.ResetState
  refine ⟨fun c hc => ?_, rfl⟩
  rw [mem_file_reset hc]
  exact ⟨rfl, rfl, rfl, rfl⟩

theorem Env.default_wf : Env.default.Wf := by
  unfold Env.Wf
  decide

theorem Context.reset_wf : Context.reset.Wf Env.default :=
  ⟨iff_of_false nofun nofun, nofun, by decide, by decide, by decide, nofun⟩

/-- Settles O55: the default parameters, an empty memory and cache, and one context that is not busy. -/
theorem resetInv : Obligations.ResetInv := by
  unfold Obligations.ResetInv
  refine ⟨⟨Env.default_wf, reset_mem_wf, nofun, by decide, nofun, fun c hc => ?_⟩, fun c hc => ?_⟩
  · rw [mem_file_reset hc]; exact Context.reset_wf
  · rw [mem_file_reset hc]; exact nofun

/-! ## Where a micro-operation stops -/

theorem scalarRound_stops {s : State} (h : 79 < s.ctx.seq.t.toNat) (stage : Nat) :
    s.scalarRound stage = .refused .counterOutOfRange := if_neg (Nat.not_le.mpr h)

theorem encodeWord_stops {s : State} (h : 4 < s.ctx.seq.k5.toNat) (be : Bool) :
    s.encodeWord be = .refused .counterOutOfRange := if_neg (Nat.not_le.mpr h)

/-- Settles O50: a counter or offset past its bound, and a unit that is absent. -/
theorem microOperationStops : Obligations.MicroOperationStops := by
  unfold Obligations.MicroOperationStops
  intro s
  refine ⟨fun ht => if_neg (Nat.not_le.mpr ht), fun ht => if_neg ?_, fun hk => ⟨encodeWord_stops hk true,
    encodeWord_stops hk false⟩, fun ho => if_neg (Nat.not_le.mpr ho), fun i hi ht => ?_, fun hg => ⟨fun hA => ?_,
    fun hB => ?_⟩, fun hA i k hi => ?_, fun hB i f hi => ?_⟩
  · show ¬(16 ≤ s.ctx.seq.t.toNat ∧ s.ctx.seq.t.toNat ≤ 79)
    omega
  · simp only [List.mem_cons, List.not_mem_nil, or_false] at hi
    obtain rfl | rfl | rfl | rfl := hi <;> exact scalarRound_stops ht _
  · exact (if_pos hA).trans (if_neg (Nat.not_le.mpr hg))
  · exact (if_pos hB).trans (if_neg (Nat.not_le.mpr hg))
  · have absent : ¬s.env.hasA = true := Bool.eq_false_iff.mp hA
    simp only [List.mem_cons, List.not_mem_nil, or_false] at hi
    obtain rfl | rfl | rfl | rfl | rfl | rfl | rfl | rfl | rfl | rfl := hi <;> exact if_neg absent
  · have absent : ¬s.env.hasB = true := Bool.eq_false_iff.mp hB
    simp only [List.mem_cons, List.not_mem_nil, or_false] at hi
    obtain rfl | rfl | rfl | rfl | rfl | rfl | rfl | rfl | rfl := hi <;> exact if_neg absent

end Sys2Proof.Machine
end

section
/-!
PROOFS. The frame of an operation (R30, R31, R34, R54, R307): it changes the context in focus and the free counter, and
GETCAPS and HASH may fill the cache first (`exec_frame`); and the cache along a step (R27, R62, R64).
-/

namespace Sys2Proof.Machine

/-! ## The frame of an operation -/

/-- `t` is `s` but for the context in focus and the free counter; that context keeps its operands, and its fault record
too unless it is in phase FAULT. -/
def State.Confined (s t : State) : Prop :=
  ∃ c n, t = { s with ctx := c, free := n } ∧ c.opPtr = s.ctx.opPtr ∧ c.opLen = s.ctx.opLen ∧
    (c.fault = s.ctx.fault ∧ c.fcmd = s.ctx.fcmd ∨ c.phase = .fault)

/-- What operation `i` can do: stay confined, GETCAPS and HASH also after filling the cache (R120, R255). -/
def State.Frame (i : Instr) (s t : State) : Prop :=
  s.Confined t ∨ (i = .getcaps ∨ i = .hash) ∧ s.fillCaps.Confined t

theorem After.imp {P Q : State → Prop} {o : Out} (h : After P o) (hpq : ∀ t, P t → Q t) : After Q o :=
  fun t ht => hpq t (h t ht)

theorem State.Confined.refl (s : State) : s.Confined s := ⟨_, _, rfl, rfl, rfl, .inl ⟨rfl, rfl⟩⟩

theorem State.confined_takeFault (s : State) (c : Cause) (code : Byte) : s.Confined (s.takeFault c code) :=
  ⟨_, _, rfl, rfl, rfl, .inr rfl⟩

/-- What a command without a fault may write. -/
theorem State.confined_update (s : State) {p : Phase} {b : Bool} {t : Backend} {v : Bool} {h : Quint}
    {d : Vector Byte 20} {u : Units} {q : Seq} {n : Nat} :
    s.Confined { s with
      ctx := { s.ctx with phase := p, busy := b, bsel := t, bselValid := v, h := h, digest := d, units := u, seq := q }
      free := n } :=
  ⟨_, _, rfl, rfl, rfl, .inl ⟨rfl, rfl⟩⟩

theorem State.SetsOrFaults.confined {s t : State} (h : s.SetsOrFaults t) : s.Confined t := by
  obtain ⟨h, d, u, rfl⟩ | ⟨c, code, rfl⟩ := h
  · exact s.confined_update
  · exact s.confined_takeFault c code

/-! ### Commands -/

/-- A command whose body is confined. -/
theorem After.confined {s : State} {body : State → Out} (h : After s.Confined (body s)) :
    After s.Confined (s.onCommand body) := After.onCommand (State.Confined.refl s) fun _ => h

theorem After.takesFault (s : State) (c : Cause) (code : Byte) : After s.Confined (.next (s.takeFault c code)) :=
  After.next (s.confined_takeFault c code)

theorem After.confined_finish {s : State} {code : Byte} {r : Res State} (h : ∀ t, r = .ok t → s.Confined t) :
    After s.Confined (s.finish code r) := After.finish h fun c => s.confined_takeFault c code

theorem chooseBackend_confined (s : State) (b : Backend) (code : Byte) :
    After s.Confined (s.finish code (s.chooseBackend b)) :=
  After.confined_finish fun t ht => by
    obtain ⟨-, rfl⟩ := State.chooseBackend_eq_ok.mp ht
    exact s.confined_update

theorem execSelect_confined (s : State) : After s.Confined (execSelect s) :=
  After.confined (by
    split_ifs
    · exact chooseBackend_confined s _ _
    · exact After.takesFault s _ _)

theorem forceBackend_confined (s : State) (b : Backend) (code : Byte) : After s.Confined (s.forceBackend b code) :=
  After.confined (by
    split_ifs
    · exact chooseBackend_confined s b code
    · exact After.takesFault s _ _)

theorem execInit_confined (s : State) : After s.Confined (execInit s) :=
  After.confined (by
    split_ifs
    · exact After.next s.confined_update
    · exact After.takesFault s _ _)

theorem execTransform_confined (s : State) : After s.Confined (execTransform s) :=
  After.confined (by
    split
    · exact After.takesFault s _ _
    split_ifs
    · exact After.next (State.Confined.refl s)
    · exact After.refused
    · refine After.confined_finish fun t ht => ?_
      obtain ⟨_, hblocks, rfl⟩ := Res.map_eq_ok.mp ht
      obtain ⟨h, -, rfl⟩ := Res.map_eq_ok.mp hblocks
      exact s.confined_update)

theorem execFinalize_confined (s : State) : After s.Confined (execFinalize s) :=
  After.confined (by
    split
    · exact After.takesFault s _ _
    split_ifs
    · exact After.refused
    · refine After.confined_finish fun t ht => ?_
      obtain ⟨_, htail, rfl⟩ := Res.map_eq_ok.mp ht
      obtain ⟨tail, -, rfl⟩ := Res.map_eq_ok.mp htail
      exact s.confined_update)

theorem encodeBy_confined (s : State) (be : Bool) (code : Byte) : After s.Confined (s.encodeBy be code) :=
  After.confined (by
    split_ifs
    · exact After.next (s.confined_update (p := .done))
    · exact After.takesFault s _ _)

/-! ### GETCAPS and HASH -/

theorem execGetcaps_frame (s : State) : After (s.Frame .getcaps) (execGetcaps s) :=
  After.onCommand (.inl (.refl s)) fun _ => After.next (.inr ⟨.inl rfl, .refl s.fillCaps⟩)

/-- Once the cache is filled, HASH selects, computes and encodes in the context in focus, or faults there. -/
theorem execHash_frame (s : State) : After (s.Frame .hash) (execHash s) :=
  After.onCommand (.inl (.refl s)) fun _ => by
    split
    · exact After.next (.inl (s.confined_takeFault _ _))
    split
    · exact After.next (.inr ⟨.inr rfl, s.fillCaps.confined_takeFault _ _⟩)
    · exact After.fault
    rename_i s1 h1
    obtain rfl := State.hashPrepare_eq_ok h1
    refine After.finish (fun t ht => .inr ⟨.inr rfl, ?_⟩) fun c => .inr ⟨.inr rfl, _, _, rfl, rfl, rfl, .inr rfl⟩
    obtain ⟨_, hmessage, rfl⟩ := Res.map_eq_ok.mp ht
    obtain ⟨h, d, rfl⟩ := State.hashMessage_eq_ok hmessage
    exact s.fillCaps.confined_update

/-! ### Every operation -/

theorem exec_frame (i : Instr) (s : State) : After (s.Frame i) (exec i s) := by
  have confined (h : After s.Confined (exec i s)) : After (s.Frame i) (exec i s) := h.imp fun _ => .inl
  cases hi : i.isCommand with
  | false => exact confined ((exec_setsOrFaults hi s).imp fun _ => State.SetsOrFaults.confined)
  | true =>
    cases i with
    | getcaps => exact execGetcaps_frame s
    | select => exact confined (execSelect_confined s)
    | selectG => exact confined (forceBackend_confined s .generic 0x11)
    | selectA => exact confined (forceBackend_confined s .accelA 0x12)
    | selectB => exact confined (forceBackend_confined s .accelB 0x13)
    | init => exact confined (execInit_confined s)
    | transform => exact confined (execTransform_confined s)
    | finalize => exact confined (execFinalize_confined s)
    | encode => exact confined (encodeBy_confined s s.env.hostBE 0x50)
    | encodeLE => exact confined (encodeBy_confined s false 0x51)
    | encodeBE => exact confined (encodeBy_confined s true 0x52)
    | hash => exact execHash_frame s
    | _ => cases hi

/-- Settles O53: the frame of the operation (`exec_frame`), with the cache as it was or just filled. -/
theorem engineFrame : Obligations.EngineFrame := by
  unfold Obligations.EngineFrame
  intro i s t hexec
  obtain ⟨c, n, rfl, hptr, hlen, hfault⟩ | ⟨hi, c, n, rfl, hptr, hlen, hfault⟩ := exec_frame i s t hexec
  · exact ⟨fun _ => rfl, hptr, hlen, rfl, rfl, rfl, rfl, rfl, .inl ⟨rfl, rfl⟩, hfault⟩
  · obtain ⟨-, hfill⟩ | ⟨hempty, hfill⟩ := s.fillCaps_cases <;> rw [hfill] at hptr hlen hfault ⊢
    · exact ⟨fun _ => rfl, hptr, hlen, rfl, rfl, rfl, rfl, rfl, .inl ⟨rfl, rfl⟩, hfault⟩
    · exact ⟨fun _ => rfl, hptr, hlen, rfl, rfl, rfl, rfl, rfl, .inr ⟨hi, hempty, rfl, rfl⟩, hfault⟩

/-! ## The cache along a step -/

/-- Settles O60, by the cases of a step (`step_next`) and what a turn leaves beside its context (`State.Beside`). -/
theorem cacheWrittenOnce : Obligations.CacheWrittenOnce := by
  unfold Obligations.CacheWrittenOnce
  intro s t hstep hreset
  obtain ⟨-, -, rfl⟩ | ⟨v, rest, he, -⟩ | ⟨a, b, rest, -, -, -, rfl⟩ | ⟨k, es, -, -, -, hturn⟩ := step_next hstep
  · exact ⟨rfl, .inl ⟨rfl, rfl⟩⟩
  · exact absurd he (hreset v rest)
  · exact ⟨rfl, .inl ⟨rfl, rfl⟩⟩
  · obtain ⟨henv, hvalid, hcaps, -⟩ := s.focus_other k
    obtain ⟨⟨henv', -, -, -, hcache⟩, -⟩ := hturn.turnsTo
    rw [← henv, ← hvalid, ← hcaps]
    exact ⟨henv', hcache⟩

end Sys2Proof.Machine
end

section
/-!
PROOFS. Decoding and encoding: what a row of the opcode table says of the byte of its operations (R73, R75), both
directions between bytes and operations, and the twelve command codes (R72, R78); a write to CMD runs the command it
names (R71, R75).
-/

namespace Sys2Proof

/-! ## From a byte to its operation and back -/

/-- The byte of the row's operation with field `x` is the row's value under the mask and `x` in the other bits, which
are among the two low ones (R73). -/
def Row.Encodes (r : Row) : Prop :=
  (∀ j < 8, j < 2 ∨ r.mask.getLsbD j = true) ∧ ∀ x, encode (r.make x) = r.value ||| x.setWidth 8 &&& ~~~r.mask

theorem commandRows_encodes : ∀ r ∈ commandRows, r.Encodes := by unfold Row.Encodes; decide

theorem microRows_encodes : ∀ r ∈ microRows, r.Encodes := by unfold Row.Encodes; decide

/-- A byte is its bits under a mask, and its two low bits where the mask has none, if the mask has every higher bit. -/
theorem and_mask_or_low_bits {m : Byte} (hm : ∀ j < 8, j < 2 ∨ m.getLsbD j = true) (c : Byte) :
    c &&& m ||| (c.setWidth 2).setWidth 8 &&& ~~~m = c := by
  refine BitVec.eq_of_getLsbD_eq fun j hj => ?_
  obtain hlow | hbit := hm j hj
  · simp [hj, hlow, ← Bool.and_or_distrib_left]
  · simp [hbit]

/-- A row reads from a byte only the operation that the byte encodes. -/
theorem Row.Encodes.encode_make {r : Row} (hr : r.Encodes) {c : Byte} (hc : c &&& r.mask = r.value) :
    encode (r.make (c.setWidth 2)) = c := by
  obtain ⟨hmask, henc⟩ := hr
  rw [henc, ← hc, and_mask_or_low_bits hmask]

theorem encode_of_decodeRows {rows : List Row} (hrows : ∀ r ∈ rows, r.Encodes) {c : Byte} {i : Instr}
    (h : decodeRows rows c = some i) : encode i = c := by
  obtain ⟨r, hfind, rfl⟩ := Option.map_eq_some_iff.mp h
  have hmatch := List.find?_some hfind
  exact (hrows r (List.mem_of_find?_eq_some hfind)).encode_make (beq_iff_eq.mp hmatch)

/-- Whichever table reads the byte (R70). -/
theorem encode_of_decode {c : Byte} {i : Instr} (h : decode c = some i) : encode i = c := by
  unfold decode at h
  split at h
  · exact encode_of_decodeRows microRows_encodes h
  · exact encode_of_decodeRows commandRows_encodes h

/-! ## From an operation to its byte and back -/

/-- The code of a command names it (R72, R75). -/
theorem decodeCommand_encode {i : Instr} (hi : i.isCommand = true) : decodeCommand (encode i) = some i := by
  cases i with
  | getcaps | select | selectG | selectA | selectB | init | transform | finalize | encode | encodeLE | encodeBE
  | hash => rfl
  | _ => cases hi

/-- Bit 7 of an operation's byte tells the two formats apart (R70). -/
theorem getLsbD_encode (i : Instr) : (encode i).getLsbD 7 = !i.isCommand := by
  cases i with
  | vaAddk k => exact Laws.Format.vaAddk k
  | vbRnds4 f => exact Laws.Format.vbRnds4 f
  | _ => rfl

theorem decode_encode (i : Instr) : decode (encode i) = some i := by
  unfold decode
  rw [getLsbD_encode]
  cases hi : i.isCommand with
  | false => exact Machine.decodeMicro_encode hi
  | true => exact decodeCommand_encode hi

/-- Settles O1: a byte is the code of the operation it decodes to (`encode_of_decode`), and every operation decodes from
its own code (`decode_encode`). -/
theorem decodeEncode : Obligations.DecodeEncode := by
  unfold Obligations.DecodeEncode
  intro c i
  constructor
  · exact encode_of_decode
  · rintro rfl
    exact decode_encode i

/-! ## The command codes (R72, R78) -/

theorem isSome_decodeRows (rows : List Row) (c : Byte) :
    (decodeRows rows c).isSome = true ↔ ∃ r ∈ rows, c &&& r.mask = r.value := by
  simp [decodeRows, List.find?_isSome]

/-- No command has a field, so the command rows match their own values and no other byte. -/
theorem isSome_decodeCommand (c : Byte) : (decodeCommand c).isSome = true ↔ c ∈ commandRows.map Row.value := by
  have hmask : ∀ r ∈ commandRows, r.mask = BitVec.allOnes 8 := by decide
  rw [decodeCommand, isSome_decodeRows, List.mem_map]
  refine exists_congr fun r => and_congr_right fun hr => ?_
  rw [hmask r hr, BitVec.and_allOnes, eq_comm]

/-- Settles O2: the values of the command rows (`isSome_decodeCommand`), and sixteen bytes decoded. -/
theorem operationCodes : Obligations.OperationCodes := by
  unfold Obligations.OperationCodes
  exact ⟨isSome_decodeCommand, by decide⟩

end Sys2Proof

namespace Sys2Proof.Machine

/-! ## A write to CMD (R71, R75) -/

/-- A register write to a context that is not busy happens (R33, R331). -/
theorem step_write {s : State} {k reg : Nat} {v : BitVec 64} {rest : List Event} (hk : k < s.numCtx)
    (hb : (s.focus k).ctx.busy = false) (hreg : HostReg.writable reg = true) (he : s.events = .write k reg v :: rest) :
    step s = writeReg reg v (s.turn k rest) := by
  rw [step_cons he]
  exact (if_pos hreg).trans (whenFree_of_not_busy hk hb rest _)

theorem step_issue {s : State} {k : Nat} {c : Byte} {rest : List Event} (hk : k < s.numCtx)
    (hb : (s.focus k).ctx.busy = false) (he : s.events = .issue k c :: rest) :
    step s = writeCmd issue c (s.turn k rest) := by
  rw [step_cons he]
  exact whenFree_of_not_busy hk hb rest _

theorem writeCmd_of_decode {s : State} {c : Byte} {i : Instr} (hp : s.ctx.phase ≠ .fault)
    (hi : decodeCommand c = some i) (run : Instr → State → Out) : writeCmd run c s = run i s := by
  simp only [writeCmd, if_neg hp, hi]

/-- Settles O3: the move happens (`step_write`, `step_issue`) and the byte names the command (`writeCmd_of_decode`). -/
theorem stepRunsCommand : Obligations.StepRunsCommand := by
  unfold Obligations.StepRunsCommand
  intro s k rest i hk hready
  obtain ⟨hb, hp⟩ := hready
  refine ⟨fun v he hi => ?_, fun c he hi => ?_⟩
  · have hstep : step s = writeCmd exec (v.setWidth 8) (s.turn k rest) := step_write hk hb rfl he
    rw [hstep]
    exact writeCmd_of_decode (s := s.turn k rest) hp hi exec
  · rw [step_issue hk hb he]
    exact writeCmd_of_decode (s := s.turn k rest) hp hi issue

end Sys2Proof.Machine
end

section
/-!
PROOFS. The primitives of 40_primitives: rotation (R106), the big-endian load and store, the byte swap (R100 to R103),
and a word read from the current block.
-/

namespace Sys2Proof.Machine

/-! ## Rotation (R106) -/

theorem toNat_rotl32 (x : Word) {n : Nat} (hn : n < 32) :
    (rotl32 x n).toNat = (x.toNat * 2 ^ n % 2 ^ 32) ||| (x.toNat / 2 ^ (32 - n)) := by
  rw [rotl32, BitVec.toNat_rotateLeft, Nat.mod_eq_of_lt hn, Nat.shiftLeft_eq, Nat.shiftRight_eq_div_pow]

/-- Bit `i` of a word goes `n` places up, around the end (R106). -/
theorem getLsbD_rotl32_add (x : Word) {n i : Nat} (hn : n < 32) (hi : i < 32) :
    (rotl32 x n).getLsbD ((i + n) % 32) = x.getLsbD i := by
  rw [getLsbD_rotl32 x hn (Nat.mod_lt _ (by decide)), show ((i + n) % 32 + 32 - n) % 32 = i by omega]

/-- Two rotations compose, around the end as well (R106). -/
theorem rotl32_rotl32_mod (x : Word) {m n : Nat} (hm : m < 32) (hn : n < 32) :
    rotl32 (rotl32 x m) n = rotl32 x ((m + n) % 32) := by
  refine BitVec.eq_of_getLsbD_eq fun i hi => ?_
  rw [getLsbD_rotl32 _ hn hi, getLsbD_rotl32 _ hm (by omega), getLsbD_rotl32 _ (by omega) hi]
  congr 1
  omega

/-- Settles O27: the value (`toNat_rotl32`), the bits (`getLsbD_rotl32_add`), exclusive-or (`rotl32_xor`) and
composition (`rotl32_rotl32_mod`), which needs no exception for a sum of 0. -/
theorem rotateLeft : Obligations.RotateLeft := by
  unfold Obligations.RotateLeft
  intro x n _ hn
  have hlt : n < 32 := by omega
  exact ⟨toNat_rotl32 x hlt, fun i hi => getLsbD_rotl32_add x hlt hi, fun y => rotl32_xor x y n,
    fun m _ hm _ => rotl32_rotl32_mod x (by omega) hlt⟩

/-! ## Big-endian words (R100) -/

theorem toNat_append_byte {n : Nat} (x : BitVec n) (b : Byte) : (x ++ b).toNat = x.toNat * 2 ^ 8 + b.toNat := by
  rw [BitVec.toNat_append, ← Nat.shiftLeft_add_eq_or_of_lt b.isLt, Nat.shiftLeft_eq]

/-- Four bytes put together are the sum of R100. -/
theorem word32_eq_beWord (b0 b1 b2 b3 : Byte) : word32 b0 b1 b2 b3 = beWord b0 b1 b2 b3 := by
  have hsum : (word32 b0 b1 b2 b3).toNat =
      b0.toNat * 2 ^ 24 + b1.toNat * 2 ^ 16 + b2.toNat * 2 ^ 8 + b3.toNat := by
    rw [word32, toNat_append_byte, toNat_append_byte, toNat_append_byte]
    omega
  rw [beWord, ← hsum, BitVec.ofNat_toNat, BitVec.setWidth_eq]

/-! ## The block source (R144) -/

theorem State.SourceReadable.blockByte {s : State} {o n : Nat} (h : s.SourceReadable o n) {i : Nat} (hi : i < n) :
    s.blockByte (o + i) = .ok (s.sourceByte (o + i)) := by
  unfold State.blockByte State.sourceByte
  split
  case isTrue hfb =>
    obtain ⟨hfit, hok⟩ := h hfb
    rw [← Nat.add_assoc]
    exact State.readByte_of_ok (by omega) (hok i hi)
  case isFalse => rfl

/-- A word of the block whose four bytes can be read is the big-endian word (R100). -/
theorem State.SourceReadable.blockWord {s : State} {o : Nat} (h : s.SourceReadable o 4) :
    s.blockWord o = .ok (s.sourceWord o) := by
  have h0 := h.blockByte (i := 0) (by decide)
  have h1 := h.blockByte (i := 1) (by decide)
  have h2 := h.blockByte (i := 2) (by decide)
  have h3 := h.blockByte (i := 3) (by decide)
  rw [Nat.add_zero] at h0
  simp [State.blockWord, h0, h1, h2, h3, word32_eq_beWord, State.sourceWord]

theorem Res.bind_assoc {α β γ : Type} (r : Res α) (k : α → Res β) (k' : β → Res γ) :
    (r.bind k).bind k' = r.bind fun a => (k a).bind k' := by
  cases r <;> rfl

/-- A word of a block in host memory is a read of four bytes (R52, R100). -/
theorem State.blockWord_eq_memRead {s : State} (hfb : s.ctx.seq.fb = 0) (o : Nat) :
    s.blockWord o = (s.memRead (s.ptr + 64 * s.ctx.seq.blk.toNat + o) 4).map fun bs => loadBE bs 0 := by
  have hbyte (i : Nat) : s.blockByte i = s.readByte (s.ptr + 64 * s.ctx.seq.blk.toNat + i) := if_pos hfb
  simp [State.blockWord, State.memRead, hbyte, Res.map, Res.bind_assoc, loadBE, byteAt, Nat.add_assoc]

/-- A read of a range with a refused byte raises AccessFault (R287). -/
theorem State.Refused.memRead {s : State} {a n : Nat} (h : s.Refused a n) : s.memRead a n = .raise .accessFault := by
  obtain ⟨hfit, i, hi, hno⟩ := h
  cases hr : s.memRead a n with
  | ok bs =>
    obtain ⟨-, hall⟩ := State.readByte_of_memRead hr
    have hbyte := hall i hi
    rw [State.readByte, if_neg (by omega), hno] at hbyte
    cases hbyte
  | raise c => rw [State.memRead_raise hr]
  | stop f => exact absurd hr (State.memRead_answers hfit f)

theorem State.SourceRefused.blockWord {s : State} {o : Nat} (h : s.SourceRefused o 4) :
    s.blockWord o = .raise .accessFault := by
  obtain ⟨hfb, hno⟩ := h
  rw [State.blockWord_eq_memRead hfb, hno.memRead, Res.map_raise]

/-! ## Bytes put into an array (R102) -/

/-- Bytes written from index `k` on stand there, every other byte is kept. -/
theorem getElem_putBytes {n : Nat} (v : Vector Byte n) (k : Nat) (bs : List Byte) {i : Nat} (hi : i < n) :
    (putBytes v k bs)[i] = if k ≤ i ∧ i < k + bs.length then byteAt bs (i - k) else v[i] := by
  induction bs generalizing v k with
  | nil => rw [if_neg (by simp)]; rfl
  | cons b bs ih =>
    rw [putBytes, ih, Vector.getElem_setIfInBounds hi, List.length_cons]
    obtain hlt | rfl | hgt := Nat.lt_trichotomy i k
    · rw [if_neg (by omega), if_neg (by omega), if_neg (by omega)]
    · rw [if_neg (by omega), if_pos rfl, if_pos (by omega), Nat.sub_self]
      rfl
    · have hiff : (k + 1 ≤ i ∧ i < k + 1 + bs.length) ↔ (k ≤ i ∧ i < k + (bs.length + 1)) := by omega
      have hbyte : byteAt (b :: bs) (i - k) = byteAt bs (i - (k + 1)) := by
        rw [show i - k = i - (k + 1) + 1 by omega]
        rfl
      rw [if_neg (show k ≠ i by omega), hbyte, if_congr hiff rfl rfl]

/-- Byte `j` of the eight, the most significant first (R102). -/
theorem byteAt_storeBE64 (v : BitVec 64) {j : Nat} (hj : j < 8) :
    byteAt (storeBE64 v) j = v.extractLsb' (56 - 8 * j) 8 := by
  match j, hj with
  | 0, _ | 1, _ | 2, _ | 3, _ | 4, _ | 5, _ | 6, _ | 7, _ => rfl

/-! ## The primitives named alone (R100 to R104) -/

theorem exec_ldbe32 {s : State} (ho : s.ctx.units.prim.off.toNat ≤ 60) :
    exec .ldbe32 s = s.finish s.ctx.seq.cmd ((s.blockWord s.ctx.units.prim.off.toNat).map fun x =>
      s.setPrim { s.ctx.units.prim with x := x }) := if_pos ho

theorem exec_ldbe32_of_readable {s : State} (ho : s.ctx.units.prim.off.toNat ≤ 60)
    (h : s.SourceReadable s.ctx.units.prim.off.toNat 4) :
    exec .ldbe32 s =
      .next (s.setPrim { s.ctx.units.prim with x := s.sourceWord s.ctx.units.prim.off.toNat }) := by
  rw [exec_ldbe32 ho, h.blockWord, Res.map_ok]
  rfl

theorem faults_ldbe32_of_refused {s : State} (ho : s.ctx.units.prim.off.toNat ≤ 60)
    (h : s.SourceRefused s.ctx.units.prim.off.toNat 4) : Faults .ldbe32 s .accessFault s.ctx.seq.cmd := by
  refine ⟨_, ?_, s.takeFault_faultedAs .accessFault s.ctx.seq.cmd⟩
  rw [exec_ldbe32 ho, h.blockWord, Res.map_raise]
  rfl

/-- STBE64 puts the double word into `SCRATCH[56..64)` and keeps the rest of SCRATCH (R102). -/
theorem getElem_putBytes_storeBE64 (sc : Vector Byte 64) (v : BitVec 64) {i : Nat} (hi : i < 64) :
    (putBytes sc 56 (storeBE64 v))[i] = if 56 ≤ i then v.extractLsb' (56 - 8 * (i - 56)) 8 else sc[i] := by
  rw [getElem_putBytes sc 56 (storeBE64 v) hi]
  have hiff : (56 ≤ i ∧ i < 56 + (storeBE64 v).length) ↔ 56 ≤ i := and_iff_left hi
  rw [if_congr hiff rfl rfl]
  split
  case isTrue => exact byteAt_storeBE64 v (by omega)
  case isFalse => rfl

/-- Settles O32: LDBE32 by its two cases (`exec_ldbe32_of_readable`, `faults_ldbe32_of_refused`), STBE64 by the bytes it
leaves (`getElem_putBytes_storeBE64`), BSWAP32 as the model has it. -/
theorem primitives : Obligations.Primitives := by
  unfold Obligations.Primitives
  refine ⟨decodeMicro_encode (i := .ldbe32) rfl, decodeMicro_encode (i := .stbe64) rfl,
    decodeMicro_encode (i := .bswap32) rfl, fun s => ⟨fun ho => ⟨?_, ?_⟩, ⟨_, rfl, fun i hi => ?_⟩, rfl⟩⟩
  · exact exec_ldbe32_of_readable ho
  · exact faults_ldbe32_of_refused ho
  · exact getElem_putBytes_storeBE64 s.ctx.units.scratch s.ctx.units.prim.v hi

end Sys2Proof.Machine
end

section
/-!
PROOFS. The commands of 41_capability_dispatch: the cache filled once (R120), the truth table of the selection (R124) and
the forced selections (R125 to R127).
-/

namespace Sys2Proof.Machine

theorem State.between_iff {s : State} : s.Between ↔ s.ctx.phase.isBetween = true := by
  unfold State.Between
  cases s.ctx.phase <;> decide

/-- A command whose next state is the fault taken ends in that fault (R290, R291). -/
theorem faults_of_exec {i : Instr} {s : State} {c : Cause} {code : Byte} (h : exec i s = .next (s.takeFault c code)) :
    Faults i s c code := ⟨_, h, s.takeFault_faultedAs c code⟩

/-! ## GETCAPS (R120) -/

theorem exec_getcaps_of_ready {s : State} (hr : s.Ready) : exec .getcaps s = .next s.fillCaps := by
  rw [show exec .getcaps s = execGetcaps s from rfl, execGetcaps, State.onCommand_ready hr]

/-- Settles O18: the context is ready, so GETCAPS is its body, the filling of the cache. -/
theorem getcaps : Obligations.Getcaps := by
  unfold Obligations.Getcaps
  exact ⟨decodeCommand_encode (i := .getcaps) rfl, fun _ hr => exec_getcaps_of_ready hr⟩

/-! ## A unit chosen (R128) -/

theorem State.finish_chooseBackend_of_present {s : State} {t : Backend} (h : s.env.present t = true) (code : Byte) :
    s.finish code (s.chooseBackend t) = .next (s.setBackend t) := by
  rw [State.chooseBackend_eq_ok.mpr ⟨h, rfl⟩]; rfl

theorem State.finish_chooseBackend_of_absent {s : State} {t : Backend} (h : s.env.present t = false) (code : Byte) :
    s.finish code (s.chooseBackend t) = .next (s.takeFault .unsupportedBackend code) := by
  rw [State.chooseBackend, h]; rfl

/-! ## SELECT (R123, R124) -/

theorem exec_select_of_ready {s : State} (hr : s.Ready) :
    exec .select s = if s.ctx.phase.isBetween && s.capsValid then s.finish 0x10 s.selectBackend
      else .next (s.takeFault .sequenceError 0x10) := by
  rw [show exec .select s = execSelect s from rfl, execSelect, State.onCommand_ready hr]

theorem exec_select_of_accepted {s : State} (hr : s.Ready) (hb : s.Between) (hv : s.capsValid = true) :
    exec .select s = s.finish 0x10 (s.chooseBackend (selectTag s.env s.caps)) :=
  (exec_select_of_ready hr).trans (if_pos (Bool.and_eq_true_iff.mpr ⟨State.between_iff.mp hb, hv⟩))

theorem exec_select_of_not_accepted {s : State} (hr : s.Ready) (h : ¬(s.Between ∧ s.capsValid = true)) :
    exec .select s = .next (s.takeFault .sequenceError 0x10) :=
  (exec_select_of_ready hr).trans
    (if_neg fun hc => h ((Bool.and_eq_true_iff.mp hc).imp_left State.between_iff.mpr))

/-- Settles O19: out of order by `exec_select_of_not_accepted`; else the tag is `selectTag`'s, row by row of the truth
table, and the unit is there or not. -/
theorem select : Obligations.Select := by
  unfold Obligations.Select
  refine ⟨decodeCommand_encode (i := .select) rfl, fun s hr =>
    ⟨fun h => faults_of_exec (exec_select_of_not_accepted hr h), fun hb hv t ht => ?_⟩⟩
  have htag : selectTag s.env s.caps = t := by
    rw [ht, selectTag]
    cases s.caps.getLsbD s.env.capABit <;> cases s.caps.getLsbD s.env.capBBit <;> rfl
  have hexec := exec_select_of_accepted hr hb hv
  rw [htag] at hexec
  exact ⟨fun habsent => faults_of_exec (hexec.trans (State.finish_chooseBackend_of_absent habsent _)),
    fun hpresent => hexec.trans (State.finish_chooseBackend_of_present hpresent _)⟩

/-! ## Forced selections (R125 to R127)

One argument for the three commands: `he` says that command `i` forces the unit `t`. -/

section Forced

variable {s : State} {i : Instr} {t : Backend} {code : Byte} (he : exec i s = s.forceBackend t code) (hr : s.Ready)

include he hr

theorem faults_of_forced_not_between (hb : ¬ s.Between) : Faults i s .sequenceError code :=
  faults_of_exec (he.trans ((State.onCommand_ready hr).trans (if_neg (hb ∘ State.between_iff.mpr))))

theorem exec_of_forced_between (hb : s.Between) : exec i s = s.finish code (s.chooseBackend t) :=
  he.trans ((State.onCommand_ready hr).trans (if_pos (State.between_iff.mp hb)))

theorem exec_of_forced_present (hb : s.Between) (h : s.env.present t = true) : exec i s = .next (s.setBackend t) :=
  (exec_of_forced_between he hr hb).trans (State.finish_chooseBackend_of_present h code)

theorem faults_of_forced_absent (hb : s.Between) (h : s.env.present t = false) :
    Faults i s .unsupportedBackend code :=
  faults_of_exec ((exec_of_forced_between he hr hb).trans (State.finish_chooseBackend_of_absent h code))

end Forced

/-- Settles O20: each of the three forces its unit, of which the Generic one is always there. -/
theorem forcedSelection : Obligations.ForcedSelection := by
  unfold Obligations.ForcedSelection
  refine ⟨decodeCommand_encode (i := .selectG) rfl, decodeCommand_encode (i := .selectA) rfl,
    decodeCommand_encode (i := .selectB) rfl, fun s hr => ?_⟩
  have hG : exec .selectG s = s.forceBackend .generic 0x11 := rfl
  have hA : exec .selectA s = s.forceBackend .accelA 0x12 := rfl
  have hB : exec .selectB s = s.forceBackend .accelB 0x13 := rfl
  refine ⟨fun hb => ⟨?_, ?_, ?_⟩, fun hb => ⟨?_, ?_, ?_, ?_, ?_⟩⟩
  · exact faults_of_forced_not_between hG hr hb
  · exact faults_of_forced_not_between hA hr hb
  · exact faults_of_forced_not_between hB hr hb
  · exact exec_of_forced_present hG hr hb rfl
  · exact exec_of_forced_present hA hr hb
  · exact faults_of_forced_absent hA hr hb
  · exact exec_of_forced_present hB hr hb
  · exact faults_of_forced_absent hB hr hb

end Sys2Proof.Machine
end

section
/-!
PROOFS. The scalar unit and the commands INIT and TRANSFORM of 42_transform_generic; and that each unit's micro-sequence
has the effect of `Compress` on H (R152, R193, R204).
-/

namespace Sys2Proof.Machine

/-! ## The micro-sequences of the three units (R152, R193, R204) -/

theorem Steps.microSteps {n : Nat} {s t : State} (h : Steps n s t) : microSteps n s = .next t := by
  induction n generalizing s with
  | zero => exact congrArg Host.Outcome.next h
  | succ n ih =>
    obtain ⟨-, u, hu, h⟩ := h
    rw [Machine.microSteps, hu]
    exact ih h

/-- A busy context is inside a command; moving it to another place inside changes H, the registers and the position. -/
theorem State.inCommand_of_busy {s : State} (hb : s.ctx.busy = true) (h : Quint) (u : Units) (q : Seq) :
    s.inCommand h u q = { s with ctx := { s.ctx with h := h, units := u, seq := q } } := by
  rw [State.inCommand, ← hb]

/-- Settles O51, by the run of each unit on a block (`steps_unitG`, `steps_unitA`, `steps_unitB`). -/
theorem unitSequences : Obligations.UnitSequences := by
  unfold Obligations.UnitSequences
  intro s bk hb hbk
  have here : s.inCommand s.ctx.h s.ctx.units s.ctx.seq = s := State.inCommand_of_busy hb _ _ _
  have hblock : (s.inCommand s.ctx.h s.ctx.units s.ctx.seq).BlockIs bk := here.symm ▸ hbk
  have from_here {n : Nat} {t : State} (run : Steps n (s.inCommand s.ctx.h s.ctx.units s.ctx.seq) t) :
      microSteps n s = .next t := by
    rw [here] at run
    exact run.microSteps
  refine ⟨fun hq => ?_, fun hq hA => ?_, fun hq hB => ?_⟩
  · obtain ⟨r, w, run⟩ := steps_unitG hblock hq
    exact ⟨_, from_here run, State.inCommand_of_busy hb _ _ _⟩
  · obtain ⟨a, run⟩ := steps_unitA hA hblock hq
    exact ⟨_, from_here run, State.inCommand_of_busy hb _ _ _⟩
  · obtain ⟨b, run⟩ := steps_unitB hB hblock hq
    exact ⟨_, from_here run, State.inCommand_of_busy hb _ _ _⟩

/-! ## TRANSFORM (R141) -/

/-- Only the context in focus, and the counter of the free values, which no rule names, differ. -/
theorem State.sameOutside_ctx_free (s : State) (c : Context) (n : Nat) :
    s.SameOutside { s with ctx := c, free := n } := ⟨rfl, rfl, rfl, rfl, rfl, rfl, rfl, rfl⟩

/-- A readable range read in two parts. -/
theorem State.Readable.split {s : State} {a m n : Nat} (h : s.Readable a (m + n)) :
    s.Readable a m ∧ s.Readable (a + m) n := by
  obtain ⟨hfit, hok⟩ := h
  exact ⟨⟨by omega, fun i hi => hok i (by omega)⟩,
    by omega, fun i hi => by rw [Nat.add_assoc]; exact hok (m + i) (by omega)⟩

/-- Blocks that can be read are absorbed, in order (R141, R153). -/
theorem State.Readable.absorb {s : State} {p n : Nat} (h : Quint) (hr : s.Readable p (64 * n)) :
    s.absorb p h n = .ok (compressBlocks h (s.bytes p (64 * n)) n) := by
  obtain ⟨h', hh⟩ : ∃ h', s.absorb p h n = .ok h' := by
    induction n generalizing p h with
    | zero => exact ⟨h, rfl⟩
    | succ n ih =>
      obtain ⟨hfirst, hrest⟩ := State.Readable.split (m := 64) (n := 64 * n) (by rwa [Nat.mul_succ, Nat.add_comm] at hr)
      obtain ⟨h', hh⟩ := ih (compress h (s.bytes p 64)) hrest
      exact ⟨h', (State.absorb_succ_ok (State.memRead_of_readable hfirst) h n).trans hh⟩
  rw [hh, State.absorb_eq_ok hh le_rfl]

/-- At the end of an atomic command only the registers and the position lose their values (R22, R23, R29). -/
theorem State.retire_ctx_of_not_busy {s : State} (hb : s.ctx.busy = false) :
    s.retire.ctx = { s.ctx with units := s.retire.ctx.units, seq := s.retire.ctx.seq } :=
  congrArg (fun b => ({ s.retire.ctx with busy := b } : Context)) hb.symm

/-- An accepted TRANSFORM: nothing for a count of 0, else its blocks by the selected unit (R141). -/
theorem exec_transform_of_accepted {s : State} (hr : s.Ready) (hp : s.ctx.phase = .absorb)
    (hrange : s.RangeOk s.ptr (64 * s.len)) :
    exec .transform s = if s.len = 0 then .next s else if !s.env.present s.ctx.bsel then .refused .unitAbsent
      else s.finish 0x30 ((s.transformBlocks s.ptr s.len).map State.retire) := by
  have hcheck : s.transformCheck = none := acceptCheck_eq_none.mpr ⟨decide_eq_true hp, hrange⟩
  rw [show exec .transform s = execTransform s from rfl, execTransform, State.onCommand_ready hr, hcheck]

/-- Settles O22: a count of 0 leaves the state; else the blocks are absorbed (`State.Readable.absorb`) and the command
ends. -/
theorem transform : Obligations.Transform := by
  unfold Obligations.Transform
  refine ⟨decodeCommand_encode (i := .transform) rfl, fun s hr hp hrange => ?_⟩
  have hexec := exec_transform_of_accepted hr hp hrange
  refine ⟨fun h0 => by rw [hexec, if_pos h0], fun hpresent hreadable => ?_⟩
  by_cases h0 : s.len = 0
  · refine ⟨s, by rw [hexec, if_pos h0], s.sameOutside_ctx_free _ _, ?_⟩
    rw [h0]
    rfl
  · rw [hexec, if_neg h0, hpresent, State.transformBlocks, hreadable.absorb]
    refine ⟨_, rfl, s.sameOutside_ctx_free _ _, ?_⟩
    exact State.retire_ctx_of_not_busy (s := s.setH _) hr.1

/-! ## The schedule and many blocks as functions of data (R142, R153) -/

theorem length_schedExtend (n : Nat) (w : List Word) : (schedExtend n w).length = w.length + n := by
  induction n generalizing w with
  | zero => rfl
  | succ n ih => rw [schedExtend, ih, List.length_append, List.length_singleton, Nat.add_assoc, Nat.add_comm 1]

/-- Settles O28: the length, the loaded words (`getD_schedule_of_lt`), the derived ones (`isSchedule_schedule`). -/
theorem scheduleRecurrence : Obligations.ScheduleRecurrence := by
  unfold Obligations.ScheduleRecurrence
  intro bk
  refine ⟨?_, fun j hj => ?_, fun i h16 hi => ?_⟩
  · rw [schedule, length_schedExtend, length_schedLoad]
  · rw [getD_schedule_of_lt bk hj, loadBE, word32_eq_beWord]
    rfl
  · obtain ⟨k, rfl⟩ := Nat.exists_eq_add_of_le' h16
    exact isSchedule_schedule bk k (by omega)

/-- Only the first `n` blocks are compressed: what follows them can be compressed afterwards (R153). -/
theorem compressBlocks_append (h : Quint) {x : List Byte} (y : List Byte) {n : Nat} (m : Nat)
    (hx : x.length = 64 * n) : compressBlocks h (x ++ y) (n + m) = compressBlocks (compressBlocks h x n) y m := by
  induction n generalizing h x with
  | zero => rw [List.length_eq_zero_iff.mp hx, Nat.zero_add]; rfl
  | succ n ih =>
    have h64 : 64 ≤ x.length := by omega
    rw [Nat.add_right_comm, compressBlocks, compressBlocks, List.take_append_of_le_length h64,
      List.drop_append_of_le_length h64]
    exact ih _ (by rw [List.length_drop]; omega)

/-- Settles O30: the second clause is the third, for one block. -/
theorem manyBlocks : Obligations.ManyBlocks := by
  unfold Obligations.ManyBlocks
  intro h x y n m hx
  refine ⟨rfl, fun h1 => ?_, compressBlocks_append h y m hx⟩
  subst h1
  rw [compressBlocks_append h y m hx, compressBlocks, compressBlocks, List.take_of_length_le (by omega)]

/-! ## INIT (R140) -/

theorem exec_init_of_ready {s : State} (hr : s.Ready) :
    exec .init s = if s.ctx.phase.isBetween && s.ctx.bselValid then .next s.startComputation
      else .next (s.takeFault .sequenceError 0x20) := by
  rw [show exec .init s = execInit s from rfl, execInit, State.onCommand_ready hr]

/-- Settles O21, by the two cases of the further condition. -/
theorem init : Obligations.Init := by
  unfold Obligations.Init
  refine ⟨decodeCommand_encode (i := .init) rfl, fun s hr => ?_⟩
  have hiff : (s.ctx.phase.isBetween && s.ctx.bselValid) = true ↔ s.Between ∧ s.ctx.bselValid = true := by
    rw [Bool.and_eq_true_iff, State.between_iff]
  refine ⟨fun h => faults_of_exec ((exec_init_of_ready hr).trans (if_neg (h ∘ hiff.mp))), fun hb hv => ?_⟩
  exact ⟨_, (exec_init_of_ready hr).trans (if_pos (hiff.mpr ⟨hb, hv⟩)), s.sameOutside_ctx_free _ _, rfl⟩

/-! ## Sums of words (R107) -/

theorem sum32_nil : sum32 [] = 0 := rfl

theorem sum32_cons (x : Word) (xs : List Word) : sum32 (x :: xs) = x + sum32 xs := by
  rw [sum32, List.map_cons, List.sum_cons, BitVec.ofNat_add, BitVec.ofNat_toNat, BitVec.setWidth_eq]
  rfl

theorem add32_eq_sum32 (x y : Word) : add32 x y = sum32 [x, y] := by
  rw [sum32_cons, sum32_cons, sum32_nil, add_zero]
  rfl

/-- The words of one quintet added to another's (R142 step 3). -/
theorem Quint.add_eq_sum32 (x y : Quint) :
    x.add y = ⟨sum32 [x.a, y.a], sum32 [x.b, y.b], sum32 [x.c, y.c], sum32 [x.d, y.d], sum32 [x.e, y.e]⟩ := by
  simp only [Quint.add, add32_eq_sum32]

/-- The order in which a round adds its five terms does not matter (R147 to R150). -/
theorem roundStep_eq_sum32 (stage : Nat) (w : Word) (q : Quint) :
    roundStep stage w q =
      ⟨sum32 [q.e, roundF stage q.b q.c q.d, w, roundK stage, rotl32 q.a 5], q.a, rotl32 q.b 30, q.c, q.d⟩ := by
  simp only [roundStep, add32, sum32_cons, sum32_nil, add_zero, add_assoc]

/-- Settles O33: WR.LOAD as the model has it, FEEDFWD by the sums word by word (`Quint.add_eq_sum32`). -/
theorem loadAndFeedForward : Obligations.LoadAndFeedForward := by
  unfold Obligations.LoadAndFeedForward
  refine ⟨decodeMicro_encode (i := .wrLoad) rfl, decodeMicro_encode (i := .feedfwd) rfl, fun s => ⟨rfl, ?_⟩⟩
  rw [← Quint.add_eq_sum32]
  rfl

/-! ## The schedule words in W (R144, R145) -/

theorem wAt_of_lt (w : Vector Word 80) {i : Nat} (h : i < 80) : wAt w i = w[i] := by
  rw [wAt, Vector.getElem?_eq_getElem h, Option.getD_some]

theorem State.setW_of_lt (s : State) {t : Nat} (h : t < 80) (x : Word) :
    s.setW t x = s.setUnits { s.ctx.units with w := s.ctx.units.w.set t x } := by
  have hw : s.ctx.units.w.setIfInBounds t x = s.ctx.units.w.set t x :=
    Vector.ext fun i hi => by rw [Vector.getElem_setIfInBounds hi, Vector.getElem_set]
  rw [State.setW, hw]

theorem faults_schedLoad_of_refused {s : State} {t : Nat} (ht : s.tCount = t) (h : t ≤ 15)
    (hno : s.SourceRefused (4 * t) 4) : Faults .schedLoad s .accessFault s.ctx.seq.cmd := by
  refine faults_of_exec ?_
  rw [show exec .schedLoad s = execSchedLoad s from rfl, execSchedLoad, ht, if_pos h, hno.blockWord, Res.map_raise]
  rfl

/-- Settles O34, by its two cases (`exec_schedLoad`, `faults_schedLoad_of_refused`). -/
theorem scheduleLoad : Obligations.ScheduleLoad := by
  unfold Obligations.ScheduleLoad
  refine ⟨decodeMicro_encode (i := .schedLoad) rfl, fun s t h ht =>
    ⟨fun hok => ?_, fun hno => faults_schedLoad_of_refused ht h hno⟩⟩
  rw [exec_schedLoad ht (by omega) hok.blockWord, State.setW_of_lt]

/-- Settles O35 (`exec_schedExp`): the four words that the recurrence names stand in W. -/
theorem scheduleExpand : Obligations.ScheduleExpand := by
  unfold Obligations.ScheduleExpand
  refine ⟨decodeMicro_encode (i := .schedExp) rfl, fun s t h ht => ?_⟩
  obtain ⟨k, rfl⟩ := Nat.exists_eq_add_of_le' h.1
  rw [exec_schedExp ht (by omega), State.setW_of_lt s (by omega), wAt_of_lt _ (by omega), wAt_of_lt _ (by omega),
    wAt_of_lt _ (by omega), wAt_of_lt _ (by omega)]
  rfl

/-! ## One round (R147 to R150) -/

theorem State.scalarRound_of_lt {s : State} {t : Nat} (ht : s.ctx.seq.t.toNat = t) (h : t < 80) (stage : Nat) :
    s.scalarRound stage =
      let q := s.ctx.units.wr
      .next (s.setUnits { s.ctx.units with
        wr := ⟨sum32 [q.e, roundF stage q.b q.c q.d, s.ctx.units.w[t], roundK stage, rotl32 q.a 5],
          q.a, rotl32 q.b 30, q.c, q.d⟩ }) := by
  rw [State.scalarRound, show s.tCount = t from ht, if_pos (by omega), wAt_of_lt _ h, roundStep_eq_sum32]

/-- Settles O36: each of the four is one round of its stage, whose function and constant are those of R146. -/
theorem scalarRounds : Obligations.ScalarRounds := by
  unfold Obligations.ScalarRounds
  refine ⟨decodeMicro_encode (i := .rndCh) rfl, decodeMicro_encode (i := .rndPar1) rfl,
    decodeMicro_encode (i := .rndMaj) rfl, decodeMicro_encode (i := .rndPar2) rfl, fun s t h ht => ⟨?_, ?_, ?_, ?_⟩⟩
  · exact fun _ => State.scalarRound_of_lt ht h 0
  · exact fun _ => State.scalarRound_of_lt ht h 1
  · exact fun _ => State.scalarRound_of_lt ht h 2
  · exact fun _ => State.scalarRound_of_lt ht h 3

end Sys2Proof.Machine
end

section
/-!
PROOFS. The vector units of 43_transform_accel: both compute `Compress` (R181), and what each of their micro-operations
does in a build that has the unit (R183 to R192, R195 to R203).
-/

namespace Sys2Proof.Machine

/-! ## The three units (R181) -/

/-- Settles O29: each unit's micro-sequence ends in `Compress`, by its invariant over the groups. -/
theorem backendsAgree : Obligations.BackendsAgree := by
  unfold Obligations.BackendsAgree
  intro h bk
  exact ⟨compressA_eq_compress h bk, compressB_eq_compress h bk⟩

/-! ## A micro-operation where its unit is there (R35, R36, R128) -/

/-- An operation of unit A that only maps the unit's registers. -/
theorem exec_mapA {s : State} {i : Instr} (f : State → UnitA → UnitA) (hA : s.env.hasA = true)
    (he : exec i s = s.onUnitA fun s => .next (s.mapA (f s))) : exec i s = .next (s.mapA (f s)) :=
  he.trans (if_pos hA)

/-- An operation of unit B that only maps the unit's registers. -/
theorem exec_mapB {s : State} {i : Instr} (f : State → UnitB → UnitB) (hB : s.env.hasB = true)
    (he : exec i s = s.onUnitB fun s => .next (s.mapB (f s))) : exec i s = .next (s.mapB (f s)) :=
  he.trans (if_pos hB)

/-- Settles O37: each maps its unit's registers by `UnitA.load` or `UnitB.load` of H. -/
theorem vectorInit : Obligations.VectorInit := by
  unfold Obligations.VectorInit
  refine ⟨decodeMicro_encode (i := .vaInit) rfl, decodeMicro_encode (i := .vbInit) rfl, fun s => ⟨fun hA => ?_,
    fun hB => ?_⟩⟩
  · exact exec_mapA (fun s => UnitA.load s.ctx.h) hA rfl
  · exact exec_mapB (fun s => UnitB.load s.ctx.h) hB rfl

/-! ## Loading four words (R184, R196) -/

theorem State.SourceReadable.part {s : State} {o n : Nat} (h : s.SourceReadable o n) {j m : Nat} (hj : j + m ≤ n) :
    s.SourceReadable (o + j) m := fun hfb => by
  obtain ⟨hfit, hok⟩ := h hfb
  exact ⟨by omega, fun i hi => by simpa only [Nat.add_assoc] using hok (j + i) (by omega)⟩

/-- Sixteen bytes that can be read are four big-endian words (R100). -/
theorem State.SourceReadable.blockVec {s : State} {o : Nat} (h : s.SourceReadable o 16) :
    s.blockVec o = .ok ⟨s.sourceWord o, s.sourceWord (o + 4), s.sourceWord (o + 8), s.sourceWord (o + 12)⟩ := by
  have h0 := (h.part (j := 0) (m := 4) (by decide)).blockWord
  have h4 := (h.part (j := 4) (m := 4) (by decide)).blockWord
  have h8 := (h.part (j := 8) (m := 4) (by decide)).blockWord
  have h12 := (h.part (j := 12) (m := 4) (by decide)).blockWord
  rw [Nat.add_zero] at h0
  simp [State.blockVec, h0, h4, h8, h12]

/-- Four words of a block in host memory are a read of sixteen bytes (R52, R184). -/
theorem State.blockVec_eq_memRead {s : State} (hfb : s.ctx.seq.fb = 0) (o : Nat) :
    s.blockVec o = (s.memRead (s.ptr + 64 * s.ctx.seq.blk.toNat + o) 16).map fun bs => loadVec bs 0 := by
  simp [State.blockVec, State.blockWord_eq_memRead hfb, State.memRead, Res.map, Res.bind_assoc, loadVec, loadBE, byteAt,
    Nat.add_assoc]

theorem State.SourceRefused.blockVec {s : State} {o : Nat} (h : s.SourceRefused o 16) :
    s.blockVec o = .raise .accessFault := by
  obtain ⟨hfb, hno⟩ := h
  rw [State.blockVec_eq_memRead hfb, hno.memRead, Res.map_raise]

/-! One argument for the two units: `he` says that operation `i` loads the four words and puts them by `put`. -/

section Load

variable {s : State} {i : Instr} {put : Vec4 → State} {o : Nat}
  (he : exec i s = s.finish s.ctx.seq.cmd ((s.blockVec o).map put))

include he

theorem exec_load_of_readable (h : s.SourceReadable o 16) :
    exec i s =
      .next (put ⟨s.sourceWord o, s.sourceWord (o + 4), s.sourceWord (o + 8), s.sourceWord (o + 12)⟩) := by
  rw [he, h.blockVec]
  rfl

theorem faults_load_of_refused (h : s.SourceRefused o 16) : Faults i s .accessFault s.ctx.seq.cmd := by
  refine faults_of_exec ?_
  rw [he, h.blockVec]
  rfl

end Load

theorem exec_vaLdbe {s : State} (hA : s.env.hasA = true) (hg : s.group ≤ 3) :
    exec .vaLdbe s =
      s.finish s.ctx.seq.cmd ((s.blockVec (16 * s.group)).map fun x => s.mapA (UnitA.putWords s.group x)) :=
  (if_pos hA).trans (if_pos hg)

theorem exec_vbLdbe {s : State} (hB : s.env.hasB = true) (hg : s.group ≤ 3) :
    exec .vbLdbe s =
      s.finish s.ctx.seq.cmd ((s.blockVec (16 * s.group)).map fun x => s.mapB (UnitB.putWords s.group x)) :=
  (if_pos hB).trans (if_pos hg)

/-- Settles O38: in both units the sixteen bytes can be read, or one is refused (`exec_load_of_readable`,
`faults_load_of_refused`). -/
theorem vectorLoad : Obligations.VectorLoad := by
  unfold Obligations.VectorLoad
  refine ⟨decodeMicro_encode (i := .vaLdbe) rfl, decodeMicro_encode (i := .vbLdbe) rfl, ?_⟩
  rintro s _ hg rfl
  refine ⟨fun hA => ?_, fun hB => ?_⟩
  · exact ⟨exec_load_of_readable (exec_vaLdbe hA hg), faults_load_of_refused (exec_vaLdbe hA hg)⟩
  · exact ⟨exec_load_of_readable (exec_vbLdbe hB hg), faults_load_of_refused (exec_vbLdbe hB hg)⟩

/-! ## The schedule updates (R185, R186, R197 to R199) -/

/-- Settles O39: the lanes are those of `UnitA.su0` and `UnitA.su1`. -/
theorem scheduleUnitA : Obligations.ScheduleUnitA := by
  unfold Obligations.ScheduleUnitA
  refine ⟨decodeMicro_encode (i := .vaSu0) rfl, decodeMicro_encode (i := .vaSu1) rfl, fun s hA => ⟨?_, ?_⟩⟩
  · exact exec_mapA (fun s => UnitA.su0 s.group) hA rfl
  · exact exec_mapA (fun s => UnitA.su1 s.group) hA rfl

/-- Settles O43: the lanes are those of `UnitB.msg1`, `UnitB.xorT` and `UnitB.msg2`. -/
theorem scheduleUnitB : Obligations.ScheduleUnitB := by
  unfold Obligations.ScheduleUnitB
  refine ⟨decodeMicro_encode (i := .vbMsg1) rfl, decodeMicro_encode (i := .vbXor) rfl,
    decodeMicro_encode (i := .vbMsg2) rfl, fun s hB => ⟨?_, ?_, ?_⟩⟩
  · exact exec_mapB (fun s => UnitB.msg1 s.group) hB rfl
  · exact exec_mapB (fun s => UnitB.xorT s.group) hB rfl
  · exact exec_mapB (fun s => UnitB.msg2 s.group) hB rfl

/-! ## Sums lane by lane (R107, R187, R200, R201, R202) -/

/-- The constant of stage `k` added to each lane, with no carry between lanes (R187, R202). -/
theorem Vec4.map_add32_eq_sum32 (x : Vec4) (k : Word) :
    x.map (fun w => add32 w k) = ⟨sum32 [x.l0, k], sum32 [x.l1, k], sum32 [x.l2, k], sum32 [x.l3, k]⟩ := by
  simp only [Vec4.map, add32_eq_sum32]

/-- Settles O40: `UnitA.addK` as sums lane by lane (`Vec4.map_add32_eq_sum32`), and `UnitA.hRotate`. -/
theorem addConstantUnitA : Obligations.AddConstantUnitA := by
  unfold Obligations.AddConstantUnitA
  refine ⟨fun k => decodeMicro_encode (i := .vaAddk k) rfl, decodeMicro_encode (i := .vaH) rfl, fun s hA =>
    ⟨fun k => ?_, ?_⟩⟩
  · have hexec : exec (.vaAddk k) s = .next (s.mapA (UnitA.addK k.toNat s.group)) :=
      exec_mapA (fun s => UnitA.addK k.toNat s.group) hA rfl
    rw [hexec, State.mapA, UnitA.addK, Vec4.map_add32_eq_sum32]
    rfl
  · exact exec_mapA (fun _ => UnitA.hRotate) hA rfl

/-- Settles O44: `UnitB.eAdd` and `UnitB.nextE` add to lane 0 alone, a sum of two words (`add32_eq_sum32`). -/
theorem addEUnitB : Obligations.AddEUnitB := by
  unfold Obligations.AddEUnitB
  refine ⟨decodeMicro_encode (i := .vbEadd) rfl, decodeMicro_encode (i := .vbNexte) rfl, fun s hB => ⟨?_, ?_⟩⟩
  · rw [← add32_eq_sum32]
    exact exec_mapB (fun s => UnitB.eAdd s.ctx.h.e) hB rfl
  · rw [← add32_eq_sum32]
    exact exec_mapB (fun s => UnitB.nextE s.group) hB rfl

/-! ## Four rounds (R182, R189 to R191, R202) -/

/-- The model's `Rounds4` is four passes of R182 with the stage's function: the order of the terms does not matter. -/
theorem rounds4_eq_fourPasses (k : Nat) (v : Vec4) (e : Word) (x : Vec4) :
    rounds4 k v e x = fourPasses (roundF k) v e x := by
  simp only [rounds4, fourPasses, roundPass, Quint.abcd, add32, sum32_cons, sum32_nil, add_zero, add_assoc]

theorem UnitA.fourRounds_eq_fourPasses (k : Nat) (u : UnitA) :
    u.fourRounds k = { u with abcd := fourPasses (roundF k) u.abcd u.e0 u.wk, e0 := u.e1 } := by
  rw [UnitA.fourRounds, rounds4_eq_fourPasses]

/-- Settles O41: four passes with the function of stage 0, 1 or 2 (`UnitA.fourRounds_eq_fourPasses`). -/
theorem fourRoundsUnitA : Obligations.FourRoundsUnitA := by
  unfold Obligations.FourRoundsUnitA
  refine ⟨decodeMicro_encode (i := .vaR4c) rfl, decodeMicro_encode (i := .vaR4p) rfl,
    decodeMicro_encode (i := .vaR4m) rfl, fun s hA => ?_⟩
  have four {i : Instr} (k : Nat) (he : exec i s = s.onUnitA fun s => .next (s.mapA (UnitA.fourRounds k))) :
      exec i s = .next (s.setUnits { s.ctx.units with va := s.ctx.units.va.fourRounds k }) :=
    exec_mapA (fun _ => UnitA.fourRounds k) hA he
  simp only [UnitA.fourRounds_eq_fourPasses] at four
  exact ⟨four 0 rfl, four 1 rfl, four 2 rfl⟩

theorem UnitB.fourRounds_eq_fourPasses (k : Nat) (u : UnitB) :
    u.fourRounds k = { u with
      abcd := fourPasses (roundF k) u.abcd 0
        ⟨sum32 [u.ew.l0, roundK k], sum32 [u.ew.l1, roundK k], sum32 [u.ew.l2, roundK k], sum32 [u.ew.l3, roundK k]⟩
      prev := u.abcd } := by
  rw [UnitB.fourRounds, rounds4_eq_fourPasses, Vec4.map_add32_eq_sum32]

/-- Settles O45: four passes with the function and the constant of stage `f` (`UnitB.fourRounds_eq_fourPasses`). -/
theorem fourRoundsUnitB : Obligations.FourRoundsUnitB := by
  unfold Obligations.FourRoundsUnitB
  refine ⟨fun f => decodeMicro_encode (i := .vbRnds4 f) rfl, fun s hB => ?_⟩
  have four (f : BitVec 2) : exec (.vbRnds4 f) s =
      .next (s.setUnits { s.ctx.units with vb := s.ctx.units.vb.fourRounds f.toNat }) :=
    exec_mapB (fun _ => UnitB.fourRounds f.toNat) hB rfl
  simp only [UnitB.fourRounds_eq_fourPasses] at four
  exact ⟨four 0, four 1, four 2, four 3⟩

/-! ## The accumulation (R192, R203) -/

/-- Settles O42: the words of H and the unit's registers added word by word (`Quint.add_eq_sum32`). -/
theorem vectorAccumulate : Obligations.VectorAccumulate := by
  unfold Obligations.VectorAccumulate
  refine ⟨decodeMicro_encode (i := .vaAcc) rfl, decodeMicro_encode (i := .vbAcc) rfl, fun s => ⟨fun hA => ?_,
    fun hB => ?_⟩⟩
  · have hexec : exec .vaAcc s = .next (s.setH (s.ctx.units.va.accumulate s.ctx.h)) := if_pos hA
    rw [hexec, UnitA.accumulate, Quint.add_eq_sum32]
  · have hexec : exec .vbAcc s = .next (s.setH (s.ctx.units.vb.accumulate s.ctx.h)) := if_pos hB
    rw [hexec, UnitB.accumulate, Quint.add_eq_sum32]

end Sys2Proof.Machine
end

section
/-!
PROOFS. Padding and FINALIZE of 44_padding: the bytes of the final blocks and how many they are (R221, R226, R257), the
padding micro-operations (R222 to R225), and the command (R220).
-/

namespace Sys2Proof.Machine

/-! ## The length field (R225, R226) -/

@[simp] theorem length_storeBE64 (v : BitVec 64) : (storeBE64 v).length = 8 := rfl

theorem toNat_mul8 (n : Nat) : (mul8 n).toNat = n * 8 % 2 ^ 64 := BitVec.toNat_ofNat _ _

/-- The eight bits of the bit length from bit `k` on. -/
theorem extractLsb'_mul8 (n k : Nat) : (mul8 n).extractLsb' k 8 = BitVec.ofNat 8 (n * 8 % 2 ^ 64 / 2 ^ k) := by
  rw [BitVec.extractLsb', toNat_mul8, Nat.shiftRight_eq_div_pow]

/-- The length field, most significant byte first (R102, R225). -/
theorem storeBE64_mul8 (n : Nat) :
    storeBE64 (mul8 n) = (List.range 8).map fun i => BitVec.ofNat 8 (n * 8 % 2 ^ 64 / 2 ^ (8 * (7 - i))) := by
  simp only [storeBE64, extractLsb'_mul8]
  rfl

/-! ## The padding function (R221) -/

/-- A tail of at most 55 bytes leaves room for the length: one block. -/
theorem pad_of_le {t : List Byte} (n : Nat) (h : t.length ≤ 55) :
    pad t n = [t ++ [0x80] ++ List.replicate (56 - (t.length + 1)) 0 ++ storeBE64 (mul8 n)] := if_pos (by omega)

/-- A longer tail does not: two blocks, the length in the second. -/
theorem pad_of_gt {t : List Byte} (n : Nat) (h : 55 < t.length) :
    pad t n = [t ++ [0x80] ++ List.replicate (64 - (t.length + 1)) 0, List.replicate 56 0 ++ storeBE64 (mul8 n)] :=
  if_neg (by omega)

theorem length_pad (t : List Byte) (n : Nat) : (pad t n).length = if t.length ≤ 55 then 1 else 2 := by
  split
  case isTrue h => rw [pad_of_le n h]; rfl
  case isFalse h => rw [pad_of_gt n (by omega)]; rfl

theorem length_of_mem_pad {t b : List Byte} {n : Nat} (ht : t.length ≤ 63) (hb : b ∈ pad t n) : b.length = 64 := by
  by_cases h : t.length ≤ 55
  · rw [pad_of_le n h, List.mem_singleton] at hb
    simp only [hb, List.length_append, List.length_singleton, List.length_replicate, length_storeBE64]
    omega
  · rw [pad_of_gt n (by omega), List.mem_pair] at hb
    obtain rfl | rfl := hb
    · simp only [List.length_append, List.length_singleton, List.length_replicate]
      omega
    · rw [List.length_append, List.length_replicate, length_storeBE64]

/-- The final blocks read on end: the zeros of two blocks meet at their border. -/
theorem flatten_pad {t : List Byte} (n : Nat) (ht : t.length ≤ 63) :
    ∃ z, z < 64 ∧ (pad t n).flatten = t ++ [0x80] ++ List.replicate z 0 ++ storeBE64 (mul8 n) := by
  by_cases h : t.length ≤ 55
  · refine ⟨56 - (t.length + 1), by omega, ?_⟩
    rw [pad_of_le n h, List.flatten_singleton]
  · refine ⟨64 - (t.length + 1) + 56, by omega, ?_⟩
    rw [pad_of_gt n (by omega), List.replicate_add]
    simp

/-- Settles O31: the blocks by count (`length_pad`), size (`length_of_mem_pad`) and bytes (`flatten_pad`); the tail of a
message of `L` bytes has `L mod 64`. -/
theorem paddingShape : Obligations.PaddingShape := by
  unfold Obligations.PaddingShape
  refine ⟨fun t n ht => ⟨length_pad t n, fun b => length_of_mem_pad ht, ?_⟩, fun n => ?_, fun b => ?_⟩
  · rw [← storeBE64_mul8]
    exact flatten_pad n ht
  · rw [toNat_mul8]
    omega
  · rw [length_pad, List.length_drop]
    split <;> omega

/-! ## The padding micro-operations (R222 to R225) -/

theorem byteAt_bytes (s : State) (a : Nat) {n i : Nat} (hi : i < n) : byteAt (s.bytes a n) i = s.mem.read (a + i) := by
  simp [byteAt, State.bytes, hi]

/-- A tail that can be read is copied to the front of SCRATCH. -/
theorem exec_padCopy_of_readable {s : State} (h : s.Readable s.tailPtr s.tailSize) :
    exec .padCopy s = .next (s.putScratch 0 (s.bytes s.tailPtr s.tailSize)) := by
  rw [show exec .padCopy s = execPadCopy s from rfl, execPadCopy, State.memRead_of_readable h]
  rfl

theorem faults_padCopy_of_refused {s : State} (h : s.Refused s.tailPtr s.tailSize) :
    Faults .padCopy s .accessFault s.ctx.seq.cmd := by
  refine faults_of_exec ?_
  rw [show exec .padCopy s = execPadCopy s from rfl, execPadCopy, h.memRead]
  rfl

/-- Settles O46, by the two cases of the read (`exec_padCopy_of_readable`, `faults_padCopy_of_refused`). -/
theorem padCopy : Obligations.PadCopy := by
  unfold Obligations.PadCopy
  refine ⟨decodeMicro_encode (i := .padCopy) rfl, fun s =>
    ⟨fun h => ⟨_, exec_padCopy_of_readable h, fun i hi => ?_⟩, faults_padCopy_of_refused⟩⟩
  have hiff : (0 ≤ i ∧ i < 0 + (s.bytes s.tailPtr s.tailSize).length) ↔ i < s.tailSize := by simp
  rw [getElem_putBytes _ _ _ hi, if_congr hiff rfl rfl]
  exact if_ctx_congr Iff.rfl (byteAt_bytes s s.tailPtr) fun _ => rfl

/-- PAD.LEN fills the last eight bytes of SCRATCH (R225). -/
theorem getElem_putBytes_mul8 (sc : Vector Byte 64) (n : Nat) {i : Nat} (hi : i < 64) :
    (putBytes sc 56 (storeBE64 (mul8 n)))[i] =
      if 56 ≤ i then BitVec.ofNat 8 (n * 8 % 2 ^ 64 / 2 ^ (8 * (63 - i))) else sc[i] := by
  rw [getElem_putBytes_storeBE64 sc _ hi, extractLsb'_mul8]
  refine if_ctx_congr Iff.rfl (fun h56 => ?_) fun _ => rfl
  rw [show 56 - 8 * (i - 56) = 8 * (63 - i) by omega]

/-- Settles O47: one byte at `r`, and the length field (`getElem_putBytes_mul8`). -/
theorem padMarkAndLength : Obligations.PadMarkAndLength := by
  unfold Obligations.PadMarkAndLength
  refine ⟨decodeMicro_encode (i := .padMark) rfl, decodeMicro_encode (i := .padLen) rfl, fun s =>
    ⟨⟨_, rfl, fun i hi => ?_⟩, ⟨_, rfl, fun i hi => getElem_putBytes_mul8 _ s.len hi⟩⟩⟩
  rw [putBytes, putBytes, Vector.getElem_setIfInBounds hi]
  exact if_congr eq_comm rfl rfl

/-- A range of zeros, empty when `hi ≤ lo` (R224). -/
theorem getElem_putBytes_zeros {n : Nat} (v : Vector Byte n) (lo hi : Nat) {j : Nat} (hj : j < n) :
    (putBytes v lo (List.replicate (hi - lo) 0))[j] = if lo ≤ j ∧ j < hi then 0 else v[j] := by
  have hiff : (lo ≤ j ∧ j < lo + (List.replicate (hi - lo) (0 : Byte)).length) ↔ lo ≤ j ∧ j < hi := by
    rw [List.length_replicate]
    omega
  rw [getElem_putBytes v lo _ hj, if_congr hiff rfl rfl]
  refine if_ctx_congr Iff.rfl (fun hin => ?_) fun _ => rfl
  exact List.getD_replicate _ (by omega)

/-- Settles O48: each of the three writes a range of zeros (`getElem_putBytes_zeros`). -/
theorem padZero : Obligations.PadZero := by
  unfold Obligations.PadZero
  refine ⟨decodeMicro_encode (i := .padZero0) rfl, decodeMicro_encode (i := .padZero1) rfl,
    decodeMicro_encode (i := .padZero2) rfl, by decide, fun s => ⟨?_, ?_, ?_⟩⟩
  · exact ⟨_, rfl, fun _ => getElem_putBytes_zeros _ (s.len % 64 + 1) 56⟩
  · exact ⟨_, rfl, fun _ => getElem_putBytes_zeros _ (s.len % 64 + 1) 64⟩
  · exact ⟨_, rfl, fun _ => getElem_putBytes_zeros _ 0 56⟩

/-! ## FINALIZE (R220) -/

/-- An accepted FINALIZE where the selected unit is there is its body, then the end of the command. -/
theorem exec_finalize_of_accepted {s : State} (hr : s.Ready) (hp : s.ctx.phase = .absorb)
    (hrange : s.RangeOk s.ptr (s.len % 64)) (hpresent : s.env.present s.ctx.bsel = true) :
    exec .finalize s = s.finish 0x40 ((s.finalizeTail s.ptr s.len).map State.retire) := by
  have hcheck : s.finalizeCheck = none := acceptCheck_eq_none.mpr ⟨decide_eq_true hp, hrange⟩
  rw [show exec .finalize s = execFinalize s from rfl, execFinalize, State.onCommand_ready hr, hcheck, hpresent]
  rfl

/-- Settles O23: the tail is read (`State.memRead_of_readable`), its final blocks are compressed into H
(`State.finalizeTail_ok`), and the command ends. -/
theorem finalize : Obligations.Finalize := by
  unfold Obligations.Finalize
  refine ⟨decodeCommand_encode (i := .finalize) rfl, fun s hr hp hrange hpresent hreadable => ?_⟩
  have hbody := State.finalizeTail_ok (State.memRead_of_readable hreadable)
  rw [exec_finalize_of_accepted hr hp hrange hpresent, hbody]
  refine ⟨_, rfl, s.sameOutside_ctx_free _ _, ?_⟩
  exact State.retire_ctx_of_not_busy (s := (s.setH _).setPhase _) hr.1

end Sys2Proof.Machine
end

section
/-!
PROOFS. The digest encoder of 45_digest: the bytes that one digest word (R243, R244) and all five words (R240, R248)
write, and the commands ENCODE, ENCODE.LE and ENCODE.BE (R240 to R242).
-/

namespace Sys2Proof.Machine

/-! ## The bytes of a digest word (R85) -/

/-- A big-endian store puts the most significant byte first (R245). -/
theorem byteAt_storeNative32_true (x : Word) {i : Nat} (hi : i < 4) :
    byteAt (storeNative32 x true) i = x.extractLsb' (24 - 8 * i) 8 := by
  match i, hi with
  | 0, _ | 1, _ | 2, _ | 3, _ => rfl

/-- Digest word `k` takes the four bytes `4k` to `4k + 3`, most significant first by either path (R243, R244). -/
theorem getElem_putDigestWord (be : Bool) (h : Quint) (k : Nat) (d : Vector Byte 20) {j : Nat} (hj : j < 20) :
    (putDigestWord be h k d)[j] = if j / 4 = k then (h.get k).extractLsb' (24 - 8 * (j % 4)) 8 else d[j] := by
  have hiff : (4 * k ≤ j ∧ j < 4 * k + (storeNative32 (h.get k) true).length) ↔ j / 4 = k := by
    rw [length_storeNative32]
    omega
  simp only [putDigestWord, digestWord_eq]
  rw [getElem_putBytes d (4 * k) _ hj, if_congr hiff rfl rfl]
  refine if_ctx_congr Iff.rfl (fun hk => ?_) fun _ => rfl
  rw [show j - 4 * k = j % 4 by omega]
  exact byteAt_storeNative32_true _ (by omega)

/-- After `n` digest words the bytes of those words are written and the others are kept (R248). -/
theorem getElem_putDigestUpTo (be : Bool) (h : Quint) (d : Vector Byte 20) (n : Nat) {j : Nat} (hj : j < 20) :
    (putDigestUpTo be h d n)[j] = if j / 4 < n then (h.get (j / 4)).extractLsb' (24 - 8 * (j % 4)) 8 else d[j] := by
  induction n with
  | zero => rw [if_neg (Nat.not_lt_zero _)]; rfl
  | succ n ih =>
    simp only [putDigestUpTo_succ]
    rw [getElem_putDigestWord be h n _ hj, ih]
    obtain hlt | heq | hgt := Nat.lt_trichotomy (j / 4) n
    · rw [if_neg (by omega), if_pos hlt, if_pos (by omega)]
    · rw [if_pos heq, if_pos (by omega), heq]
    · rw [if_neg (by omega), if_neg (by omega), if_neg (by omega)]

/-- Byte `i` of word `k` of a whole digest, by either path and over whatever it held (R85, R240). -/
theorem getElem_putDigest (be : Bool) (h : Quint) (d : Vector Byte 20) {k i : Nat} (hk : k < 5) (hi : i < 4) :
    (putDigest be h d)[4 * k + i] = (h.get k).extractLsb' (24 - 8 * i) 8 := by
  have hword := getElem_putDigestUpTo be h d 5 (show 4 * k + i < 20 by omega)
  rw [if_pos (by omega), show (4 * k + i) / 4 = k by omega, show (4 * k + i) % 4 = i by omega] at hword
  exact hword

/-! ## ENC.SWST and ENC.ST (R243, R244) -/

theorem exec_eq_encodeWord {i : Instr} (hi : i = .encSt ∨ i = .encSwst) (s : State) :
    ∃ be, exec i s = s.encodeWord be := by
  obtain rfl | rfl := hi
  · exact ⟨true, rfl⟩
  · exact ⟨false, rfl⟩

/-- Settles O49: either path writes word `K5` alone (`getElem_putDigestWord`). -/
theorem encodeWord : Obligations.EncodeWord := by
  unfold Obligations.EncodeWord
  refine ⟨decodeMicro_encode (i := .encSwst) rfl, decodeMicro_encode (i := .encSt) rfl, fun i s k hi hs hk => ?_⟩
  subst hs
  obtain ⟨be, hexec⟩ := exec_eq_encodeWord hi s
  exact ⟨_, hexec.trans (if_pos hk), fun j hj => getElem_putDigestWord be s.ctx.h _ s.ctx.digest hj⟩

/-! ## ENCODE, ENCODE.LE, ENCODE.BE (R240 to R242) -/

/-- Each ENCODE is the one body by some path: the strap's, the little-endian or the big-endian one. -/
theorem exec_eq_encodeBy {i : Instr} (hi : i = .encode ∨ i = .encodeLE ∨ i = .encodeBE) (s : State) :
    ∃ be, exec i s = s.encodeBy be (encode i) := by
  obtain rfl | rfl | rfl := hi
  · exact ⟨s.env.hostBE, rfl⟩
  · exact ⟨false, rfl⟩
  · exact ⟨true, rfl⟩

/-- An ENCODE in phase FINAL by a context that is not busy changes the phase, the digest and the position only. -/
theorem State.retireSeq_encodeDigest_ctx {s : State} (hb : s.ctx.busy = false) (be : Bool) :
    (s.encodeDigest be).retireSeq.ctx = { s.ctx with
      phase := .done, digest := putDigest be s.ctx.h s.ctx.digest, seq := Config.freeSeq s.free } :=
  congrArg (fun b => ({ (s.encodeDigest be).retireSeq.ctx with busy := b } : Context)) hb.symm

/-- Settles O24: outside phase FINAL the order is wrong; in it the digest's bytes are the same by either path
(`getElem_putDigest`) and the frame is that of `State.retireSeq_encodeDigest_ctx`. The name is not `encode`, which
would hide the byte function `Sys2Proof.encode` in this namespace. -/
theorem encodeCommands : Obligations.Encode := by
  unfold Obligations.Encode
  refine ⟨decodeCommand_encode (i := .encode) rfl, decodeCommand_encode (i := .encodeLE) rfl,
    decodeCommand_encode (i := .encodeBE) rfl, fun i s hi hr => ?_⟩
  obtain ⟨be, hexec⟩ := exec_eq_encodeBy hi s
  rw [State.encodeBy, State.onCommand_ready hr] at hexec
  refine ⟨fun hp => faults_of_exec (hexec.trans (if_neg hp)), fun hp => ?_⟩
  refine ⟨_, hexec.trans (if_pos hp), s.sameOutside_ctx_free _ _, State.retireSeq_encodeDigest_ctx hr.1 be, ?_⟩
  exact fun k j hk hj => getElem_putDigest be s.ctx.h s.ctx.digest hk hj

end Sys2Proof.Machine
end

section
/-!
PROOFS. HASH of 46_hash (R255, R256): its parts in order on a buffer that can be read, and its end state; and the table
of R262: what each command does in the phases that accept it and in the others (R286).
-/

namespace Sys2Proof.Machine

/-! ## HASH on a readable buffer (R255, R256) -/

/-- The cache after it was filled, whether it held a value before or not (R120). -/
theorem State.fillCaps_eq (s : State) :
    s.fillCaps = { s with caps := if s.capsValid then s.caps else s.env.capIn, capsValid := true } := by
  obtain ⟨hv, h⟩ | ⟨hv, h⟩ := s.fillCaps_cases
  · rw [h, if_pos hv, ← hv]
  · rw [h, hv]
    rfl

/-- HASH is prepared where the unit it selects is there (R124, R128). -/
theorem State.hashPrepare_of_present {s : State}
    (h : s.fillCaps.env.present (selectTag s.fillCaps.env s.fillCaps.caps) = true) :
    s.hashPrepare = .ok (s.fillCaps.setBackend (selectTag s.fillCaps.env s.fillCaps.caps)).startComputation := by
  rw [State.hashPrepare, State.selectBackend, State.chooseBackend_eq_ok.mpr ⟨h, rfl⟩, Res.map_ok]

/-- `H` at the end of a message: the full blocks of the buffer compressed from `h`, then the final blocks (R255). -/
def State.messageH (s : State) (h : Quint) : Quint :=
  (pad ((s.bytes s.ptr s.len).drop (64 * (s.len / 64))) s.len).foldl compress
    (compressBlocks h (s.bytes s.ptr s.len) (s.len / 64))

/-- TRANSFORM, FINALIZE and ENCODE of HASH on a buffer that can be read: its full blocks, then its tail (R255). -/
theorem State.Readable.hashMessage {s : State} (h : s.Readable s.ptr s.len) :
    s.hashMessage = .ok (((s.setH (s.messageH s.ctx.h)).setPhase .final).encodeDigest s.env.hostBE) := by
  have hlen : 64 * (s.len / 64) + s.len % 64 = s.len := Nat.div_add_mod s.len 64
  obtain ⟨hblocks, htail⟩ :=
    State.Readable.split (m := 64 * (s.len / 64)) (n := s.len % 64) (by rw [hlen]; exact h)
  have habsorb := hblocks.absorb s.ctx.h
  have hH := State.absorb_eq_ok habsorb (show 64 * (s.len / 64) ≤ s.len by omega)
  have hdrop := s.drop_bytes s.ptr (64 * (s.len / 64)) (s.len % 64)
  rw [hlen] at hdrop
  have hread (q : Quint) := State.memRead_of_readable (s := s.setH q) htail
  rw [State.hashMessage, State.transformBlocks, habsorb, Res.map_ok, Res.bind_ok, State.finalizeTail_ok (hread _),
    Res.map_ok, hH, State.messageH, hdrop]
  rfl

/-- A HASH that is accepted and prepared is its message, then the end of the command. -/
theorem exec_hash_of_prepared {s s1 : State} (hr : s.Ready) (hb : s.Between) (hrange : s.RangeOk s.ptr s.len)
    (h1 : s.hashPrepare = .ok s1) : exec .hash s = s1.finish hashCode (s1.hashMessage.map State.retire) := by
  have hcheck : s.hashCheck = none := acceptCheck_eq_none.mpr ⟨State.between_iff.mp hb, hrange⟩
  rw [show exec .hash s = execHash s from rfl, execHash, State.onCommand_ready hr, hcheck, h1]

/-- Settles O25: HASH is prepared (`State.hashPrepare_of_present`), its message is read to the end
(`State.Readable.hashMessage`), and what it leaves in DIGEST is the hash of the buffer (`digest_of_exec_hash`). -/
theorem hashIsSha1 : Obligations.HashIsSha1 := by
  unfold Obligations.HashIsSha1
  refine ⟨decodeCommand_encode (i := .hash) rfl, fun s hr hb hrange hreadable => ?_⟩
  intro caps hpresent _ _
  have hfill : s.fillCaps = { s with caps := caps, capsValid := true } := s.fillCaps_eq
  have hprepare := s.hashPrepare_of_present (by rw [hfill]; exact hpresent)
  rw [hfill] at hprepare
  have hmessage := State.Readable.hashMessage hreadable
    (s := (State.setBackend { s with caps := caps, capsValid := true } (selectTag s.env caps)).startComputation)
  have hexec := exec_hash_of_prepared hr hb hrange hprepare
  rw [hmessage] at hexec
  refine ⟨_, hexec, fun _ => digest_of_exec_hash hr hexec rfl, toList_putDigest _ _ _, rfl,
    State.sameOutside_ctx_free _ _ _, ?_⟩
  exact State.retire_ctx_of_not_busy (s := State.encodeDigest _ _) hr.1

/-! ## Acceptance (R262, R286, R288) -/

/-- The order is looked at before the operands. -/
theorem acceptCheck_eq_sequenceError {addrW p size : Nat} {b : Bool} :
    acceptCheck addrW b p size = some .sequenceError ↔ b = false := by
  cases b with
  | false => exact iff_of_true rfl rfl
  | true =>
    unfold acceptCheck
    split_ifs <;> simp_all

theorem acceptCheck_ne_sequenceError {addrW p size : Nat} {b : Bool} {c : Cause} (hb : b = true)
    (h : acceptCheck addrW b p size = some c) : c ≠ .sequenceError := by
  rintro rfl
  exact Bool.false_ne_true ((acceptCheck_eq_sequenceError.mp h).symm.trans hb)

theorem exec_transform_of_check {s : State} {c : Cause} (hr : s.Ready) (h : s.transformCheck = some c) :
    exec .transform s = .next (s.takeFault c 0x30) := by
  rw [show exec .transform s = execTransform s from rfl, execTransform, State.onCommand_ready hr, h]

theorem exec_finalize_of_check {s : State} {c : Cause} (hr : s.Ready) (h : s.finalizeCheck = some c) :
    exec .finalize s = .next (s.takeFault c 0x40) := by
  rw [show exec .finalize s = execFinalize s from rfl, execFinalize, State.onCommand_ready hr, h]

theorem exec_hash_of_check {s : State} {c : Cause} (hr : s.Ready) (h : s.hashCheck = some c) :
    exec .hash s = .next (s.takeFault c hashCode) := by
  rw [show exec .hash s = execHash s from rfl, execHash, State.onCommand_ready hr, h]

theorem faults_encode_of_not_final {i : Instr} {s : State} (hi : i = .encode ∨ i = .encodeLE ∨ i = .encodeBE)
    (hr : s.Ready) (hp : s.ctx.phase ≠ .final) : Faults i s .sequenceError (encode i) := by
  obtain ⟨-, -, -, hencode⟩ := encodeCommands
  obtain ⟨hout, -⟩ := hencode i s hi hr
  exact hout hp

/-- A command that the table of R262 does not accept raises SequenceError (R286). -/
theorem faults_of_not_accepted {i : Instr} {s : State} (hi : i.isCommand = true) (hr : s.Ready)
    (h : ¬ Accepted i s) : Faults i s .sequenceError (encode i) := by
  cases i with
  | getcaps => exact absurd hr.2 h
  | select => exact faults_of_exec (exec_select_of_not_accepted hr h)
  | selectG => exact faults_of_forced_not_between (t := .generic) rfl hr h
  | selectA => exact faults_of_forced_not_between (t := .accelA) rfl hr h
  | selectB => exact faults_of_forced_not_between (t := .accelB) rfl hr h
  | init =>
    obtain ⟨hout, -⟩ := init.2 s hr
    exact hout h
  | transform =>
    exact faults_of_exec (exec_transform_of_check hr (acceptCheck_eq_sequenceError.mpr (decide_eq_false h)))
  | finalize =>
    exact faults_of_exec (exec_finalize_of_check hr (acceptCheck_eq_sequenceError.mpr (decide_eq_false h)))
  | hash =>
    have hb : s.ctx.phase.isBetween = false := Bool.eq_false_iff.mpr (h ∘ State.between_iff.mpr)
    exact faults_of_exec (exec_hash_of_check hr (acceptCheck_eq_sequenceError.mpr hb))
  | encode | encodeLE | encodeBE => exact faults_encode_of_not_final (by decide) hr h
  | _ => cases hi

/-! ## What an accepted command can end in (R262) -/

/-- The command has ended in phase `p`, or in a fault that is no SequenceError. -/
def State.EndsIn (p : Phase) (t : State) : Prop :=
  t.ctx.phase = p ∨ t.ctx.phase = .fault ∧ t.ctx.fault ≠ some .sequenceError

theorem State.endsIn_takeFault (s : State) {c : Cause} (hc : c ≠ .sequenceError) (p : Phase) (code : Byte) :
    (s.takeFault c code).EndsIn p := .inr ⟨rfl, fun h => hc (Option.some.inj h)⟩

/-- The end of a command from its result: the phase of the value, or the fault raised. -/
theorem After.finish_endsIn {p : Phase} {s : State} {code : Byte} {r : Res State}
    (hok : ∀ t, r = .ok t → t.ctx.phase = p) (hraise : r ≠ .raise .sequenceError) :
    After (State.EndsIn p) (s.finish code r) := fun t ht => by
  obtain h | ⟨c, h, rfl⟩ := State.finish_next ht
  · exact .inl (hok t h)
  · exact s.endsIn_takeFault (fun hc => hraise (hc ▸ h)) p code

/-- A bind raises what one of its two operations raises. -/
theorem Res.bind_eq_raise {α β : Type} {r : Res α} {k : α → Res β} {c : Cause} :
    r.bind k = .raise c ↔ r = .raise c ∨ ∃ a, r = .ok a ∧ k a = .raise c := by
  cases r <;> simp [Res.bind]

theorem Res.map_eq_raise {α β : Type} {r : Res α} {f : α → β} {c : Cause} : r.map f = .raise c ↔ r = .raise c := by
  cases r <;> simp [Res.map, Res.bind]

/-- The blocks of a command raise nothing but AccessFault (R281). -/
theorem State.absorb_raise {s : State} {p n : Nat} {h : Quint} {c : Cause} (hraise : s.absorb p h n = .raise c) :
    c = .accessFault := by
  induction n generalizing p h with
  | zero => cases hraise
  | succ n ih =>
    obtain hread | ⟨bk, -, hrest⟩ := Res.bind_eq_raise.mp hraise
    · exact State.memRead_raise hread
    · exact ih hrest

theorem State.finalizeTail_raise {s : State} {p n : Nat} {c : Cause} (h : s.finalizeTail p n = .raise c) :
    c = .accessFault := State.memRead_raise (Res.map_eq_raise.mp h)

theorem State.hashMessage_raise {s : State} {c : Cause} (h : s.hashMessage = .raise c) : c = .accessFault := by
  obtain hblocks | ⟨s1, -, htail⟩ := Res.bind_eq_raise.mp h
  · exact State.absorb_raise (Res.map_eq_raise.mp hblocks)
  · exact State.finalizeTail_raise (Res.map_eq_raise.mp htail)

theorem State.chooseBackend_raise {s : State} {t : Backend} {c : Cause} (h : s.chooseBackend t = .raise c) :
    c = .unsupportedBackend := by
  unfold State.chooseBackend at h
  split_ifs at h
  cases h
  rfl

theorem chooseBackend_endsIn (s : State) (t : Backend) (code : Byte) :
    After (State.EndsIn s.ctx.phase) (s.finish code (s.chooseBackend t)) := by
  refine After.finish_endsIn (fun u hu => ?_) fun hc => nomatch State.chooseBackend_raise hc
  obtain ⟨-, rfl⟩ := State.chooseBackend_eq_ok.mp hu
  rfl

theorem forced_endsIn {s : State} {i : Instr} {t : Backend} {code : Byte} (he : exec i s = s.forceBackend t code)
    (hr : s.Ready) (hb : s.Between) : After (State.EndsIn s.ctx.phase) (exec i s) := by
  rw [exec_of_forced_between he hr hb]
  exact chooseBackend_endsIn s t code

theorem exec_transform_endsIn {s : State} (hr : s.Ready) (hp : s.ctx.phase = .absorb) :
    After (State.EndsIn s.ctx.phase) (exec .transform s) := by
  cases hcheck : s.transformCheck with
  | some c =>
    rw [exec_transform_of_check hr hcheck]
    exact After.next (s.endsIn_takeFault (acceptCheck_ne_sequenceError (decide_eq_true hp) hcheck) _ _)
  | none =>
    rw [exec_transform_of_accepted hr hp (acceptCheck_eq_none.mp hcheck).2]
    split_ifs
    · exact After.next (.inl rfl)
    · exact After.refused
    · refine After.finish_endsIn (fun t ht => ?_) fun hc => ?_
      · obtain ⟨_, hblocks, rfl⟩ := Res.map_eq_ok.mp ht
        obtain ⟨_, -, rfl⟩ := Res.map_eq_ok.mp hblocks
        rfl
      · nomatch State.absorb_raise (Res.map_eq_raise.mp (Res.map_eq_raise.mp hc))

theorem exec_finalize_endsIn {s : State} (hr : s.Ready) (hp : s.ctx.phase = .absorb) :
    After (State.EndsIn .final) (exec .finalize s) := by
  cases hcheck : s.finalizeCheck with
  | some c =>
    rw [exec_finalize_of_check hr hcheck]
    exact After.next (s.endsIn_takeFault (acceptCheck_ne_sequenceError (decide_eq_true hp) hcheck) _ _)
  | none =>
    rw [show exec .finalize s = execFinalize s from rfl, execFinalize, State.onCommand_ready hr, hcheck]
    split_ifs
    · exact After.refused
    · refine After.finish_endsIn (fun t ht => ?_) fun hc => ?_
      · obtain ⟨_, htail, rfl⟩ := Res.map_eq_ok.mp ht
        obtain ⟨_, -, rfl⟩ := Res.map_eq_ok.mp htail
        rfl
      · nomatch State.finalizeTail_raise (Res.map_eq_raise.mp hc)

theorem exec_hash_endsIn {s : State} (hr : s.Ready) (hb : s.Between) :
    After (State.EndsIn .done) (exec .hash s) := by
  cases hcheck : s.hashCheck with
  | some c =>
    rw [exec_hash_of_check hr hcheck]
    exact After.next (s.endsIn_takeFault (acceptCheck_ne_sequenceError (State.between_iff.mp hb) hcheck) _ _)
  | none =>
    cases hprepare : s.hashPrepare with
    | raise c =>
      rw [show exec .hash s = execHash s from rfl, execHash, State.onCommand_ready hr, hcheck, hprepare]
      rw [State.chooseBackend_raise (Res.map_eq_raise.mp hprepare)]
      exact After.next (s.fillCaps.endsIn_takeFault (by decide) _ _)
    | stop f => exact absurd hprepare (s.hashPrepare_answers f)
    | ok s1 =>
      rw [exec_hash_of_prepared hr hb (acceptCheck_eq_none.mp hcheck).2 hprepare]
      refine After.finish_endsIn (fun t ht => ?_) fun hc => ?_
      · obtain ⟨_, hmessage, rfl⟩ := Res.map_eq_ok.mp ht
        obtain ⟨_, _, rfl⟩ := State.hashMessage_eq_ok hmessage
        rfl
      · nomatch State.hashMessage_raise (Res.map_eq_raise.mp hc)

theorem exec_encode_endsIn {i : Instr} {s : State} (hi : i = .encode ∨ i = .encodeLE ∨ i = .encodeBE) (hr : s.Ready)
    (hp : s.ctx.phase = .final) : After (State.EndsIn .done) (exec i s) := by
  obtain ⟨-, -, -, hencode⟩ := encodeCommands
  obtain ⟨-, hin⟩ := hencode i s hi hr
  obtain ⟨t, hexec, -, hctx, -⟩ := hin hp
  rw [hexec]
  exact After.next (.inl (congrArg Context.phase hctx))

/-- A command that the table of R262 accepts ends in the phase the table gives, or in a fault that is no
SequenceError. -/
theorem endsIn_of_accepted {i : Instr} {s : State} (hr : s.Ready) (h : Accepted i s) :
    After (State.EndsIn (phaseAfter i s.ctx.phase)) (exec i s) := by
  cases i with
  | getcaps =>
    rw [exec_getcaps_of_ready hr]
    exact After.next (.inl (congrArg Context.phase s.fillCaps_ctx_mem.1))
  | select =>
    obtain ⟨hb, hv⟩ := h
    rw [exec_select_of_accepted hr hb hv]
    exact chooseBackend_endsIn s _ _
  | selectG => exact forced_endsIn (t := .generic) rfl hr h
  | selectA => exact forced_endsIn (t := .accelA) rfl hr h
  | selectB => exact forced_endsIn (t := .accelB) rfl hr h
  | init =>
    obtain ⟨hb, hv⟩ := h
    obtain ⟨-, hin⟩ := init.2 s hr
    obtain ⟨t, hexec, -, hctx⟩ := hin hb hv
    rw [hexec]
    exact After.next (.inl (congrArg Context.phase hctx))
  | transform => exact exec_transform_endsIn hr h
  | finalize => exact exec_finalize_endsIn hr h
  | hash => exact exec_hash_endsIn hr h
  | encode | encodeLE | encodeBE => exact exec_encode_endsIn (by decide) hr h
  | _ => cases h

theorem phaseAfter_ne_fault {p : Phase} (hp : p ≠ .fault) (i : Instr) : phaseAfter i p ≠ .fault := by
  cases i with
  | init | finalize | encode | encodeLE | encodeBE | hash => exact nofun
  | _ => exact hp

/-- Settles O17: what is not accepted faults (`faults_of_not_accepted`), and what is accepted ends in the table's phase
or in another fault (`endsIn_of_accepted`). -/
theorem phaseTable : Obligations.PhaseTable := by
  unfold Obligations.PhaseTable
  intro i s hi hr
  have hne := phaseAfter_ne_fault hr.2 i
  refine ⟨⟨fun hfaults hacc => ?_, faults_of_not_accepted hi hr⟩, fun t hexec => ?_⟩
  · obtain ⟨t, hexec, hphase, -, hfault, -⟩ := hfaults
    obtain hp | ⟨-, hother⟩ := endsIn_of_accepted hr hacc t hexec
    · exact hne (hp.symm.trans hphase)
    · exact hother hfault
  · by_cases hacc : Accepted i s
    · exact (endsIn_of_accepted hr hacc t hexec).symm.imp_left And.left
    · obtain ⟨u, hu, hphase, -⟩ := faults_of_not_accepted hi hr hacc
      obtain rfl := Host.Outcome.next.inj (hu.symm.trans hexec)
      exact .inl hphase

end Sys2Proof.Machine
end

section
/-!
PROOFS. The register file along a step: only the entry of the context whose turn it is can differ (R60, R307), and phase
FAULT is left by reset alone (R292, R321). A write to a busy context is held (R331); the reset event (R320).
-/

namespace Sys2Proof.Machine

/-! ## The register file along a step -/

/-- A turn writes the entry of the context in focus, no other (R307). -/
theorem State.Beside.file_eq {s t : State} (h : s.Beside t) : t.file = s.file.set s.current t.ctx := by
  obtain ⟨-, -, hbefore, hafter, -⟩ := h
  simp [State.file, State.current, hbefore, hafter]

/-- Addressing context `k` makes it the one in focus. -/
theorem State.current_focus {s : State} {k : Nat} (hk : k < s.numCtx) : (s.focus k).current = k := by
  have hlt : k < s.file.length := by rwa [s.length_file]
  simp only [State.focus, List.getElem?_eq_getElem hlt, State.current, List.length_take]
  omega

/-- Everything a step that is no reset does to the register file: nothing, or a turn of the context `State.mover`
names. -/
theorem step_file {s t : State} (h : step s = .next t) (hreset : ∀ v rest, s.events ≠ .reset v :: rest) :
    t.file = s.file ∨
      ∃ k c c', s.mover = some k ∧ s.file[k]? = some c ∧ c.Turn s.env c' ∧ t.file = s.file.set k c' := by
  obtain ⟨-, -, rfl⟩ | ⟨v, rest, he, -⟩ | ⟨a, b, rest, -, -, -, rfl⟩ | ⟨k, es, hmover, hk, -, hturn⟩ := step_next h
  · exact .inl rfl
  · exact absurd he (hreset v rest)
  · exact .inl rfl
  · obtain ⟨hbeside, hctx⟩ := hturn.turnsTo
    have hfile := hbeside.file_eq
    rw [s.turn_file, show (s.turn k es).current = k from State.current_focus hk] at hfile
    rw [show (s.turn k es).env = s.env from (s.focus_other k).1] at hctx
    exact .inr ⟨k, _, _, hmover, State.focus_ctx hk, hctx, hfile⟩

/-- Settles O54: a step leaves the register file, or sets the mover's entry in it (`step_file`). -/
theorem stepIsolation : Obligations.StepIsolation := by
  unfold Obligations.StepIsolation
  intro s t hstep hreset
  obtain hfile | ⟨k, c, c', hmover, -, -, hfile⟩ := step_file hstep hreset
  · rw [hfile]
    exact ⟨rfl, fun _ _ => rfl⟩
  · rw [hfile]
    refine ⟨List.length_set, fun j hj => List.getElem?_set_ne fun hkj => hj ?_⟩
    rw [hmover, hkj]

/-! ## Phase FAULT (R292) -/

/-- A turn leaves a well-formed context in phase FAULT there, with its record: no command runs in it and none is looked
at (R290, R292). -/
theorem Context.Turn.stays_faulted {env : Env} {c c' : Context} (h : c.Turn env c') (hw : c.Wf env)
    (hp : c.phase = .fault) : c'.phase = .fault ∧ c'.busy = false ∧ c'.fault = c.fault ∧ c'.fcmd = c.fcmd := by
  have ⟨_, hbusy, _⟩ := hw
  cases h with
  | keeps hphase hb hfault hfcmd =>
    exact ⟨hphase.trans hp, hb.trans (Bool.eq_false_iff.mpr fun h => hbusy h hp), hfault, hfcmd⟩
  | goesOn hengaged => exact absurd hp (hw.of_engaged hengaged).2
  | selects hbetween => rw [hp] at hbetween; cases hbetween
  | faults hc => exact absurd hp (hc.elim hbusy id)

/-- Settles O58: the entry is as it was, where the invariant gives it BUSY = 0, or it is the mover's, and a turn leaves
it in phase FAULT (`step_file`, `Context.Turn.stays_faulted`). -/
theorem onlyResetLeavesFault : Obligations.OnlyResetLeavesFault := by
  unfold Obligations.OnlyResetLeavesFault
  intro s t k c hs hstep hreset hc hp
  obtain ⟨-, -, -, -, -, hctx⟩ := hs
  have hw : c.Wf s.env := hctx c (List.mem_of_getElem? hc)
  have same (h : t.file[k]? = s.file[k]?) :
      ∃ c', t.file[k]? = some c' ∧ c'.phase = .fault ∧ c'.busy = false ∧ c'.fault = c.fault ∧ c'.fcmd = c.fcmd :=
    ⟨c, h.trans hc, (Context.Turn.refl s.env c).stays_faulted hw hp⟩
  obtain hfile | ⟨j, d, d', -, hd, hturn, hfile⟩ := step_file hstep hreset
  · exact same (by rw [hfile])
  · by_cases hj : j = k
    · subst hj
      obtain rfl : d = c := Option.some.inj (hd.symm.trans hc)
      obtain ⟨hlt, -⟩ := List.getElem?_eq_some_iff.mp hc
      exact ⟨d', by rw [hfile, List.getElem?_set_self hlt], hturn.stays_faulted hw hp⟩
    · exact same (by rw [hfile, List.getElem?_set_ne hj])

/-! ## A held write (R331) -/

theorem whenFree_of_busy {s : State} {k : Nat} (hk : k < s.numCtx) (hb : (s.focus k).ctx.busy = true)
    (rest : List Event) (f : State → Out) : whenFree k rest s f = microStep (s.focus k) := by
  rw [whenFree, onContext, if_pos hk, if_pos hb]

/-- A micro-step writes nothing outside the context in focus, and neither of its operands (R31, R307). -/
theorem microStep_confined (s : State) : After s.Confined (microStep s) := fun t ht => by
  obtain ⟨i, u, hi, hu, rfl⟩ := microStep_next ht
  obtain ⟨h, d, r, rfl⟩ | ⟨c, code, rfl⟩ := exec_setsOrFaults (isCommand_of_decodeMicro hi) s u hu
  · split_ifs
    · obtain ⟨p, b, r', q, n, hmove, -⟩ :=
        advance_movesOn i { s with ctx := { s.ctx with h := h, digest := d, units := r } }
      rw [hmove]
      exact s.confined_update
    · exact s.confined_update
  · exact s.confined_takeFault c code

/-- Settles O5: either form of the write waits (`whenFree_of_busy`), and the micro-step meanwhile leaves the moves and
the operands (`microStep_confined`). -/
theorem writeHeldWhileBusy : Obligations.WriteHeldWhileBusy := by
  unfold Obligations.WriteHeldWhileBusy
  intro s k e rest he hk hb hmove
  have hstep : step s = microStep (s.focus k) := by
    rw [step_cons he]
    obtain ⟨reg, v, rfl, hreg⟩ | ⟨c, rfl⟩ := hmove
    · exact (if_pos hreg).trans (whenFree_of_busy hk hb rest _)
    · exact whenFree_of_busy hk hb rest _
  refine ⟨hstep, fun t ht => ?_⟩
  obtain ⟨c, n, rfl, hptr, hlen, -⟩ := microStep_confined _ t (hstep ▸ ht)
  obtain ⟨-, -, -, -, hevents, -⟩ := s.focus_other k
  exact ⟨hevents, hptr, hlen⟩

/-! ## The reset event (R320) -/

theorem length_resetContexts (w : Nat) (l : List Context) (n : Nat) : (resetContexts w l n).length = l.length := by
  induction l generalizing n with
  | nil => rfl
  | cons c rest ih => rw [resetContexts, List.length_cons, List.length_cons, ih]

/-- A reset event keeps the number of contexts (R6). -/
theorem State.numCtx_resetEvent (s : State) (v : BitVec 64) : (s.resetEvent v).numCtx = s.numCtx := by
  simp only [State.numCtx, State.resetEvent, length_resetContexts]

/-- Settles O11: every context is one right after reset (`State.mem_file_resetEvent`). -/
theorem resetEvent : Obligations.ResetEvent := by
  unfold Obligations.ResetEvent
  intro s v rest he
  refine ⟨({ s with events := rest } : State).resetEvent v, step_cons he, fun c hc => ?_, ?_, rfl, rfl, rfl, rfl⟩
  · obtain ⟨m, rfl⟩ := State.mem_file_resetEvent hc
    exact ⟨rfl, rfl, rfl, rfl⟩
  · rw [State.length_file, State.length_file, State.numCtx_resetEvent]
    rfl

end Sys2Proof.Machine
end

section
/-!
PROOFS. The faults of 60_exceptions: a byte that names no command (R284), writes to CMD in phase FAULT (R292), and where
an accepted command raises NullBuffer and AddressRange (R283, R285), UnsupportedBackend (R282) and AccessFault (R287).
-/

namespace Sys2Proof.Machine

/-! ## Writes to CMD that run no command (R284, R292) -/

theorem writeCmd_of_no_command {s : State} {c : Byte} (hp : s.ctx.phase ≠ .fault) (hc : decodeCommand c = none)
    (run : Instr → State → Out) : writeCmd run c s = .next (s.takeFault .illegalCommand c) := by
  simp only [writeCmd, if_neg hp, hc]

theorem writeCmd_of_faulted {s : State} (hp : s.ctx.phase = .fault) (run : Instr → State → Out) (c : Byte) :
    writeCmd run c s = .next s := if_pos hp

/-- Settles O12: either form of the write reaches CMD, and the byte is none of the twelve codes (`operationCodes`). -/
theorem illegalCommand : Obligations.IllegalCommand := by
  unfold Obligations.IllegalCommand
  intro s k c rest hmove hk hready hc
  obtain ⟨hb, hp⟩ := hready
  have hnone : decodeCommand c = none := Option.not_isSome_iff_eq_none.mp (hc ∘ (operationCodes.1 c).mp)
  refine ⟨(s.turn k rest).takeFault .illegalCommand c, ?_, State.takeFault_faultedAs _ _ _⟩
  obtain ⟨v, hv, he⟩ | he := hmove
  · have hstep : step s = writeCmd exec (v.setWidth 8) (s.turn k rest) := step_write hk hb rfl he
    rw [hstep, hv]
    exact writeCmd_of_no_command (s := s.turn k rest) hp hnone exec
  · rw [step_issue hk hb he]
    exact writeCmd_of_no_command (s := s.turn k rest) hp hnone issue

theorem forceBackend_of_faulted {s : State} (hp : s.ctx.phase = .fault) (t : Backend) (code : Byte) :
    s.forceBackend t code = .next s := State.onCommand_faulted hp

theorem encodeBy_of_faulted {s : State} (hp : s.ctx.phase = .fault) (be : Bool) (code : Byte) :
    s.encodeBy be code = .next s := State.onCommand_faulted hp

/-- A command taken atomically looks at the phase before it acts (R288). -/
theorem exec_of_faulted {i : Instr} (hi : i.isCommand = true) {s : State} (hp : s.ctx.phase = .fault) :
    exec i s = .next s := by
  cases i with
  | selectG => exact forceBackend_of_faulted hp .generic 0x11
  | selectA => exact forceBackend_of_faulted hp .accelA 0x12
  | selectB => exact forceBackend_of_faulted hp .accelB 0x13
  | encode => exact encodeBy_of_faulted hp s.env.hostBE 0x50
  | encodeLE => exact encodeBy_of_faulted hp false 0x51
  | encodeBE => exact encodeBy_of_faulted hp true 0x52
  | getcaps | select | init | transform | finalize | hash =>
    unfold exec
    exact State.onCommand_faulted hp
  | _ => cases hi

theorem issue_of_faulted {i : Instr} (hi : i.isCommand = true) {s : State} (hp : s.ctx.phase = .fault) :
    issue i s = .next s := by
  cases i with
  | transform | finalize | encode | encodeLE | encodeBE | hash =>
    unfold issue
    exact State.onCommand_faulted hp
  | getcaps | select | selectG | selectA | selectB | init => exact exec_of_faulted hi hp
  | _ => cases hi

/-- Settles O13: a write to CMD is taken away (`writeCmd_of_faulted`), and a command does nothing (`exec_of_faulted`,
`issue_of_faulted`). -/
theorem faultIgnoresCommands : Obligations.FaultIgnoresCommands := by
  unfold Obligations.FaultIgnoresCommands
  refine ⟨fun s k rest hmove hk hp hb => ?_, fun i s hi hp => ⟨exec_of_faulted hi hp, issue_of_faulted hi hp⟩⟩
  obtain ⟨v, he⟩ | ⟨c, he⟩ := hmove
  · have hstep : step s = writeCmd exec (v.setWidth 8) (s.turn k rest) := step_write hk hb rfl he
    rw [hstep]
    exact writeCmd_of_faulted (s := s.turn k rest) hp exec _
  · rw [step_issue hk hb he]
    exact writeCmd_of_faulted (s := s.turn k rest) hp issue c

/-! ## Causes that an accepted command cannot end in -/

/-- The context in focus is not stopped with cause `c`. -/
def State.NotStoppedBy (c : Cause) (t : State) : Prop := ¬(t.ctx.phase = .fault ∧ t.ctx.fault = some c)

theorem State.notStoppedBy_takeFault (s : State) {c d : Cause} (hd : d ≠ c) (code : Byte) :
    (s.takeFault d code).NotStoppedBy c := fun ⟨_, h⟩ => hd (Option.some.inj h)

theorem State.notStoppedBy_of_phase {c : Cause} {t : State} (hp : t.ctx.phase ≠ .fault) : t.NotStoppedBy c :=
  fun ⟨h, _⟩ => hp h

/-- The end of a command from its result: its value is in no fault, and `c` is not raised. -/
theorem After.finish_notStoppedBy {c : Cause} {s : State} {code : Byte} {r : Res State}
    (hok : ∀ t, r = .ok t → t.ctx.phase ≠ .fault) (hraise : r ≠ .raise c) :
    After (State.NotStoppedBy c) (s.finish code r) := fun t ht => by
  obtain h | ⟨d, h, rfl⟩ := State.finish_next ht
  · exact State.notStoppedBy_of_phase (hok t h)
  · exact s.notStoppedBy_takeFault (fun hd => hraise (h.trans (congrArg _ hd))) code

theorem not_faults_of_notStoppedBy {i : Instr} {s : State} {c : Cause}
    (h : After (State.NotStoppedBy c) (exec i s)) (code : Byte) : ¬ Faults i s c code := by
  rintro ⟨t, hexec, hphase, -, hfault, -⟩
  exact h t hexec ⟨hphase, hfault⟩

/-- A TRANSFORM that passes its acceptance check raises nothing but AccessFault. -/
theorem exec_transform_notStoppedBy {s : State} {c : Cause} (hr : s.Ready) (hp : s.ctx.phase = .absorb)
    (hrange : s.RangeOk s.ptr (64 * s.len)) (hc : c ≠ .accessFault) :
    After (State.NotStoppedBy c) (exec .transform s) := by
  rw [exec_transform_of_accepted hr hp hrange]
  split_ifs
  · exact After.next (State.notStoppedBy_of_phase hr.2)
  · exact After.refused
  · refine After.finish_notStoppedBy (fun t ht => ?_) fun h => hc ?_
    · obtain ⟨_, hblocks, rfl⟩ := Res.map_eq_ok.mp ht
      obtain ⟨_, -, rfl⟩ := Res.map_eq_ok.mp hblocks
      exact hr.2
    · exact State.absorb_raise (Res.map_eq_raise.mp (Res.map_eq_raise.mp h))

/-- A FINALIZE that passes its acceptance check raises nothing but AccessFault. -/
theorem exec_finalize_notStoppedBy {s : State} {c : Cause} (hr : s.Ready) (hcheck : s.finalizeCheck = none)
    (hc : c ≠ .accessFault) : After (State.NotStoppedBy c) (exec .finalize s) := by
  rw [show exec .finalize s = execFinalize s from rfl, execFinalize, State.onCommand_ready hr, hcheck]
  split_ifs
  · exact After.refused
  · refine After.finish_notStoppedBy (fun t ht => ?_) fun h => hc ?_
    · obtain ⟨_, htail, rfl⟩ := Res.map_eq_ok.mp ht
      obtain ⟨_, -, rfl⟩ := Res.map_eq_ok.mp htail
      exact nofun
    · exact State.finalizeTail_raise (Res.map_eq_raise.mp h)

/-- A HASH whose unit is there raises nothing but AccessFault. -/
theorem exec_hash_notStoppedBy {s : State} {c : Cause} (hr : s.Ready) (hb : s.Between) (hrange : s.RangeOk s.ptr s.len)
    (hpresent : s.fillCaps.env.present (selectTag s.fillCaps.env s.fillCaps.caps) = true) (hc : c ≠ .accessFault) :
    After (State.NotStoppedBy c) (exec .hash s) := by
  rw [exec_hash_of_prepared hr hb hrange (State.hashPrepare_of_present hpresent)]
  refine After.finish_notStoppedBy (fun t ht => ?_) fun h => hc ?_
  · obtain ⟨_, hmessage, rfl⟩ := Res.map_eq_ok.mp ht
    obtain ⟨_, _, rfl⟩ := State.hashMessage_eq_ok hmessage
    exact nofun
  · exact State.hashMessage_raise (Res.map_eq_raise.mp h)

/-- A HASH whose unit is absent raises UnsupportedBackend, the cache filled (R282, R290). -/
theorem exec_hash_of_absent {s : State} (hr : s.Ready) (hb : s.Between) (hrange : s.RangeOk s.ptr s.len)
    (habsent : s.fillCaps.env.present (selectTag s.fillCaps.env s.fillCaps.caps) = false) :
    exec .hash s = .next (s.fillCaps.takeFault .unsupportedBackend hashCode) := by
  have hcheck : s.hashCheck = none := acceptCheck_eq_none.mpr ⟨State.between_iff.mp hb, hrange⟩
  have hprepare : s.hashPrepare = .raise .unsupportedBackend := by
    rw [State.hashPrepare, State.selectBackend, State.chooseBackend, habsent]
    rfl
  rw [show exec .hash s = execHash s from rfl, execHash, State.onCommand_ready hr, hcheck, hprepare]

/-! ## NullBuffer and AddressRange (R283, R285) -/

theorem acceptCheck_eq_nullBuffer {addrW p size : Nat} {b : Bool} (hb : b = true) :
    acceptCheck addrW b p size = some .nullBuffer ↔ p = nullAddr ∧ size ≠ 0 := by
  subst hb
  unfold acceptCheck
  split_ifs <;> simp_all

/-- The range is looked at after the pointer. -/
theorem acceptCheck_eq_addressRange {addrW p size : Nat} {b : Bool} (hb : b = true) :
    acceptCheck addrW b p size = some .addressRange ↔ ¬(p = nullAddr ∧ size ≠ 0) ∧ 2 ^ addrW < p + size := by
  subst hb
  unfold acceptCheck
  split_ifs <;> simp_all

/-- A cause that is raised at acceptance alone is raised exactly where the acceptance check finds it (R288). -/
theorem faults_iff_check {i : Instr} {s : State} {check : Option Cause} {c : Cause} {code : Byte}
    (hfail : ∀ d, check = some d → exec i s = .next (s.takeFault d code))
    (hpass : check = none → After (State.NotStoppedBy c) (exec i s)) : Faults i s c code ↔ check = some c := by
  refine ⟨fun hfaults => ?_, fun hcheck => faults_of_exec (hfail c hcheck)⟩
  cases hcheck : check with
  | none => exact absurd hfaults (not_faults_of_notStoppedBy (hpass hcheck) code)
  | some d =>
    by_contra hne
    have hother := s.notStoppedBy_takeFault (fun hd => hne (congrArg some hd)) code
    exact not_faults_of_notStoppedBy (hfail d hcheck ▸ After.next hother) code hfaults

/-- Where the check is one of the order, which is right, and of a range, the two causes of operands are its two
conditions. -/
theorem operandFaults_of_acceptCheck {i : Instr} {s : State} {b : Bool} {size : Nat} {code : Byte} (hb : b = true)
    (hfail : ∀ d, acceptCheck s.env.addrW b s.ptr size = some d → exec i s = .next (s.takeFault d code))
    (hpass : ∀ c, c = .nullBuffer ∨ c = .addressRange → acceptCheck s.env.addrW b s.ptr size = none →
      After (State.NotStoppedBy c) (exec i s)) :
    (Faults i s .nullBuffer code ↔ s.ptr = 0 ∧ size ≠ 0) ∧
      (Faults i s .addressRange code ↔ ¬(s.ptr = 0 ∧ size ≠ 0) ∧ 2 ^ s.env.addrW < s.ptr + size) :=
  ⟨(faults_iff_check hfail (hpass _ (.inl rfl))).trans (acceptCheck_eq_nullBuffer hb),
    (faults_iff_check hfail (hpass _ (.inr rfl))).trans (acceptCheck_eq_addressRange hb)⟩

/-- Settles O14: a failed check is the fault taken, and a command that passes it raises neither cause. -/
theorem operandFaults : Obligations.OperandFaults := by
  unfold Obligations.OperandFaults
  intro s hr
  have hother {c : Cause} (hc : c = .nullBuffer ∨ c = .addressRange) : c ≠ .accessFault ∧ c ≠ .unsupportedBackend := by
    obtain rfl | rfl := hc <;> decide
  refine ⟨fun (hp : s.ctx.phase = .absorb) => ?_, fun (hp : s.ctx.phase = .absorb) => ?_, fun hb => ?_⟩
  · have h := operandFaults_of_acceptCheck (decide_eq_true hp) (fun _ => exec_transform_of_check hr)
      fun c hc hcheck => exec_transform_notStoppedBy hr hp (acceptCheck_eq_none.mp hcheck).2 (hother hc).1
    have hsize : 64 * s.len ≠ 0 ↔ s.len ≠ 0 := by omega
    rwa [hsize] at h
  · exact operandFaults_of_acceptCheck (decide_eq_true hp) (fun _ => exec_finalize_of_check hr)
      fun c hc hcheck => exec_finalize_notStoppedBy hr hcheck (hother hc).1
  · refine operandFaults_of_acceptCheck (State.between_iff.mp hb) (fun _ => exec_hash_of_check hr)
      fun c hc hcheck => ?_
    have hrange : s.RangeOk s.ptr s.len := (acceptCheck_eq_none.mp hcheck).2
    cases hpresent : s.fillCaps.env.present (selectTag s.fillCaps.env s.fillCaps.caps) with
    | true => exact exec_hash_notStoppedBy hr hb hrange hpresent (hother hc).1
    | false =>
      rw [exec_hash_of_absent hr hb hrange hpresent]
      exact After.next (State.notStoppedBy_takeFault _ (hother hc).2.symm _)

/-! ## UnsupportedBackend (R282) -/

/-- The policy names an absent unit: A where its bit is set, else B (R124). -/
theorem present_selectTag_eq_false {env : Env} {c : BitVec 64} :
    env.present (selectTag env c) = false ↔
      (c.getLsbD env.capABit = true ∧ env.hasA = false) ∨
        (c.getLsbD env.capABit = false ∧ c.getLsbD env.capBBit = true ∧ env.hasB = false) := by
  unfold selectTag
  cases c.getLsbD env.capABit <;> cases c.getLsbD env.capBBit <;> simp [Env.present]

/-- A command that ends with the choice of a unit raises UnsupportedBackend exactly if the unit is absent (R128). -/
theorem faults_unsupportedBackend_iff {i : Instr} {s : State} {t : Backend} {code : Byte} (hr : s.Ready)
    (he : exec i s = s.finish code (s.chooseBackend t)) :
    Faults i s .unsupportedBackend code ↔ s.env.present t = false := by
  refine ⟨fun hfaults => ?_, fun habsent =>
    faults_of_exec (he.trans (State.finish_chooseBackend_of_absent habsent code))⟩
  by_contra hpresent
  rw [State.finish_chooseBackend_of_present (Bool.eq_true_of_not_eq_false hpresent)] at he
  exact not_faults_of_notStoppedBy (he ▸ After.next (State.notStoppedBy_of_phase hr.2)) code hfaults

/-- Settles O15: each SELECT ends with the choice of a unit (`faults_unsupportedBackend_iff`); HASH chooses by the cache
it has filled. -/
theorem unsupportedBackend : Obligations.UnsupportedBackend := by
  unfold Obligations.UnsupportedBackend
  intro s hr
  refine ⟨fun hacc => ?_, fun hb => ?_, fun hb => ?_, fun hb hrange => ?_⟩
  · obtain ⟨hb, hv⟩ := hacc
    exact (faults_unsupportedBackend_iff hr (exec_select_of_accepted hr hb hv)).trans present_selectTag_eq_false
  · exact faults_unsupportedBackend_iff hr (exec_of_forced_between (t := .accelA) rfl hr hb)
  · exact faults_unsupportedBackend_iff hr (exec_of_forced_between (t := .accelB) rfl hr hb)
  · intro caps
    have hfill : s.fillCaps = { s with caps := caps, capsValid := true } := s.fillCaps_eq
    rw [← hfill]
    refine Iff.trans ?_ (present_selectTag_eq_false (env := s.env) (c := caps))
    have hpolicy : s.fillCaps.env.present (selectTag s.fillCaps.env s.fillCaps.caps) =
        s.env.present (selectTag s.env caps) := by rw [hfill]
    rw [← hpolicy]
    refine ⟨?_, fun habsent => ⟨_, exec_hash_of_absent hr hb hrange habsent, State.takeFault_faultedAs _ _ _⟩⟩
    rintro ⟨t, hexec, hphase, -, hfault, -⟩
    by_contra hpresent
    have hother := exec_hash_notStoppedBy (c := .unsupportedBackend) hr hb hrange
      (Bool.eq_true_of_not_eq_false hpresent) (by decide)
    exact hother t hexec ⟨hphase, hfault⟩

/-! ## AccessFault (R287) -/

/-- The refused byte of a range in two parts stands in the first, or the first can be read and it stands in the
second. -/
theorem State.Refused.split {s : State} {a m n : Nat} (h : s.Refused a (m + n)) :
    s.Refused a m ∨ s.Readable a m ∧ s.Refused (a + m) n := by
  obtain ⟨hfit, i, hi, hno⟩ := h
  by_cases hfirst : ∃ j, j < m ∧ s.env.memOk (a + j) = false
  · exact .inl ⟨by omega, hfirst⟩
  · have hok (j : Nat) (hj : j < m) : s.env.memOk (a + j) = true :=
      Bool.eq_true_of_not_eq_false fun hno => hfirst ⟨j, hj, hno⟩
    have him : m ≤ i := Nat.not_lt.mp fun him => hfirst ⟨i, him, hno⟩
    refine .inr ⟨⟨by omega, hok⟩, by omega, i - m, by omega, ?_⟩
    rwa [show a + m + (i - m) = a + i by omega]

theorem State.Refused.absorb {s : State} {p n : Nat} (h : s.Refused p (64 * n)) (q : Quint) :
    s.absorb p q n = .raise .accessFault := by
  induction n generalizing p q with
  | zero => obtain ⟨-, i, hi, -⟩ := h; omega
  | succ n ih =>
    obtain hfirst | ⟨hread, hrest⟩ :=
      State.Refused.split (m := 64) (n := 64 * n) (by rwa [Nat.mul_succ, Nat.add_comm] at h)
    · rw [State.absorb, hfirst.memRead, Res.bind_raise]
    · rw [State.absorb_succ_ok (State.memRead_of_readable hread), ih hrest]

theorem State.Refused.finalizeTail {s : State} {p n : Nat} (h : s.Refused p (n % 64)) :
    s.finalizeTail p n = .raise .accessFault := by
  rw [State.finalizeTail, h.memRead, Res.map_raise]

/-- The refused byte stands in a full block of the message or in its tail (R255). -/
theorem State.Refused.hashMessage {s : State} (h : s.Refused s.ptr s.len) : s.hashMessage = .raise .accessFault := by
  have hlen : 64 * (s.len / 64) + s.len % 64 = s.len := Nat.div_add_mod s.len 64
  rw [State.hashMessage, State.transformBlocks]
  obtain hblocks | ⟨hread, htail⟩ :=
    State.Refused.split (m := 64 * (s.len / 64)) (n := s.len % 64) (by rw [hlen]; exact h)
  · rw [hblocks.absorb, Res.map_raise, Res.bind_raise]
  · have htail' (q : Quint) := State.Refused.finalizeTail (s := s.setH q) htail
    rw [hread.absorb, Res.map_ok, Res.bind_ok, htail', Res.map_raise]

/-- Settles O16: the command is accepted and its unit is there, so it ends in the read of the refused byte. -/
theorem accessFaults : Obligations.AccessFaults := by
  unfold Obligations.AccessFaults
  intro s hr
  refine ⟨fun hp hrange hpresent hno => faults_of_exec ?_, fun hp hrange hpresent hno => faults_of_exec ?_,
    fun hb hrange => ?_⟩
  · have hlen : s.len ≠ 0 := by obtain ⟨-, i, hi, -⟩ := hno; omega
    rw [exec_transform_of_accepted hr hp hrange, if_neg hlen, hpresent, State.transformBlocks, hno.absorb]
    rfl
  · rw [exec_finalize_of_accepted hr hp hrange hpresent, hno.finalizeTail]
    rfl
  · intro caps hpresent hno
    have hfill : s.fillCaps = { s with caps := caps, capsValid := true } := s.fillCaps_eq
    have hprepare := s.hashPrepare_of_present (by rw [hfill]; exact hpresent)
    rw [hfill] at hprepare
    have hmessage := State.Refused.hashMessage hno
      (s := (State.setBackend { s with caps := caps, capsValid := true } (selectTag s.env caps)).startComputation)
    have hexec := exec_hash_of_prepared hr hb hrange hprepare
    rw [hmessage] at hexec
    exact ⟨_, hexec, State.takeFault_faultedAs (State.startComputation _) _ _⟩

end Sys2Proof.Machine
end
